-- ==== Sys2Proof/Word.lean ====
section
/-! DEFINITION. The words of the machine: a byte of a buffer, the 32-bit word of one host access (`XLEN_HOST`, R5),
and the byte address of the register window (`AW_HOST` = 12 bits, R5). -/

namespace Sys2Proof

/-- A byte of a buffer or of a byte sequence (spec/00_scope.md section 5). -/
abbrev Byte := BitVec 8

/-- The word one host access moves, and the width of every register but `CTR` (R5, R21, R62). -/
abbrev Word := BitVec 32

/-- A byte address of the 4096-byte register window (R5, R60). -/
abbrev Addr := BitVec 12

end Sys2Proof
end

