-- ==== Sys2Proof/Syntax.lean ====
section
/-! DEFINITION. The five commands of spec/opcode_table.json as syntax: one constructor per row, the fields a row leaves
free as operands (R92, R100). -/

namespace Sys2Proof

/-- The three algorithms of R93. -/
inductive Alg where
  | sha1
  | sha256
  | sha512
  deriving DecidableEq, Repr

/-- What the `ALG` field names (R93): one of the three algorithms, or a number 3 to 15 that names none. -/
inductive AlgId where
  | known (a : Alg)
  | unsupported (n : Nat)
  deriving DecidableEq, Repr

/-- `SEL` of `B32DEC` (R95): where the decoded bytes go. -/
inductive DecDest where
  | obuf
  | kbuf
  deriving DecidableEq, Repr

/-- `SEL` of `HMAC` (R95): where the message comes from. -/
inductive MsgSrc where
  | ibuf
  | ctr
  deriving DecidableEq, Repr

/-- The commands (R92). A word of a row whose `ALG` or `DIGITS` is out of range is a command too: it matches the row
(R100) and its execution ends in an error (R97 checks 2 and 3). -/
inductive Instr where
  | b32enc
  | b32dec (dest : DecDest)
  | hmac (alg : AlgId) (src : MsgSrc)
  | dtrunc (digits : Nat)
  | hotp (alg : AlgId) (digits : Nat)
  deriving DecidableEq, Repr

end Sys2Proof
end

