-- ==== Sys2Proof/WellFormed.lean ====
section
/-! DEFINITION. Which terms of `Instr` are commands the 32-bit word can spell (R91, R93, R94), and which of those pass the
pre-checks of their fields (R100, last column). -/

namespace Sys2Proof

/-- The `ALG` field is 4 bits; 0, 1 and 2 are the known algorithms, so an unsupported number is 3 to 15 (R93). -/
def AlgId.wellFormed : AlgId → Bool
  | .known _ => true
  | .unsupported n => decide (3 ≤ n) && decide (n ≤ 15)

/-- The `DIGITS` field is 4 bits: 0 to 15 (R94). -/
def digitsWellFormed (digits : Nat) : Bool := decide (digits ≤ 15)

/-- A command some 32-bit word spells. -/
def Instr.wellFormed : Instr → Bool
  | .b32enc => true
  | .b32dec _ => true
  | .hmac alg _ => alg.wellFormed
  | .dtrunc digits => digitsWellFormed digits
  | .hotp alg digits => alg.wellFormed && digitsWellFormed digits

/-- The algorithm is one of the three (pre-check 2, R97). -/
def AlgId.legal : AlgId → Bool
  | .known _ => true
  | .unsupported _ => false

/-- The digit count is in 6 to 10 (pre-check 3, R97). -/
def digitsLegal (digits : Nat) : Bool := decide (6 ≤ digits) && decide (digits ≤ 10)

/-- The command passes checks 2 and 3 of R97: one of the 29 fully legal words of R100. -/
def Instr.legal : Instr → Bool
  | .b32enc => true
  | .b32dec _ => true
  | .hmac alg _ => alg.legal
  | .dtrunc digits => digitsLegal digits
  | .hotp alg digits => alg.legal && digitsLegal digits

end Sys2Proof
end

