-- ==== Sys2Proof/Decode.lean ====
section
/-! DEFINITION. The command word (format `C`, R90, R91): its fields, the decoder (pre-check 1 of R97: a word that spells no
command is refused by name) and the encoder (R100, R135, R153, R166). -/

namespace Sys2Proof

/-- The field of `w` that is `len` bits wide and starts at bit `lo`, as an unsigned number (R91). -/
def field (w : Word) (lo len : Nat) : Nat := (w.extractLsb' lo len).toNat

/-- `OP`, bits 3:0. -/
def opField (w : Word) : Nat := field w 0 4
/-- `ALG`, bits 7:4. -/
def algField (w : Word) : Nat := field w 4 4
/-- `DIGITS`, bits 11:8. -/
def digitsField (w : Word) : Nat := field w 8 4
/-- `SEL`, bit 12. -/
def selField (w : Word) : Nat := field w 12 1
/-- `ZERO`, bits 31:13. -/
def zeroField (w : Word) : Nat := field w 13 19

/-- What an `ALG` number names (R93). -/
def algOfNumber : Nat → AlgId
  | 0 => .known .sha1
  | 1 => .known .sha256
  | 2 => .known .sha512
  | n => .unsupported n

/-- The number of an `ALG` field (R93). -/
def AlgId.number : AlgId → Nat
  | .known .sha1 => 0
  | .known .sha256 => 1
  | .known .sha512 => 2
  | .unsupported n => n

/-- `SEL` of `B32DEC` (R95). -/
def destOfSel (sel : Nat) : DecDest := if sel = 0 then .obuf else .kbuf
/-- `SEL` of `HMAC` (R95). -/
def srcOfSel (sel : Nat) : MsgSrc := if sel = 0 then .ibuf else .ctr
/-- The bit of a `B32DEC` destination (R95). -/
def DecDest.sel : DecDest → Nat
  | .obuf => 0
  | .kbuf => 1
/-- The bit of an `HMAC` message source (R95). -/
def MsgSrc.sel : MsgSrc → Nat
  | .ibuf => 0
  | .ctr => 1

/-- Why a word spells no command (R97 check 1, R99): each of them ends the command in `IllegalCommand`. -/
inductive DecodeError where
  /-- a bit of 31:13 is set -/
  | reservedBits
  /-- `OP` is 0 or 6 to 15 -/
  | noCommand
  /-- `ALG` is set and the operation does not use it -/
  | unusedAlg
  /-- `DIGITS` is set and the operation does not use it -/
  | unusedDigits
  /-- `SEL` is set and the operation does not use it -/
  | unusedSel
  deriving DecidableEq, Repr

/-- The command of a word whose bits 31:13 are 0, by `OP` (R92), with the unused fields required to be 0 (R97 check 1). -/
def decodeOp (op alg digits sel : Nat) : Except DecodeError Instr :=
  match op with
  | 1 =>
    if alg ≠ 0 then .error .unusedAlg
    else if digits ≠ 0 then .error .unusedDigits
    else if sel ≠ 0 then .error .unusedSel
    else .ok .b32enc
  | 2 =>
    if alg ≠ 0 then .error .unusedAlg
    else if digits ≠ 0 then .error .unusedDigits
    else .ok (.b32dec (destOfSel sel))
  | 3 =>
    if digits ≠ 0 then .error .unusedDigits
    else .ok (.hmac (algOfNumber alg) (srcOfSel sel))
  | 4 =>
    if alg ≠ 0 then .error .unusedAlg
    else if sel ≠ 0 then .error .unusedSel
    else .ok (.dtrunc digits)
  | 5 =>
    if sel ≠ 0 then .error .unusedSel
    else .ok (.hotp (algOfNumber alg) digits)
  | _ => .error .noCommand

/-- The decoder: total on the 2^32 words (R90, R99). -/
def decode (w : Word) : Except DecodeError Instr :=
  if zeroField w ≠ 0 then .error .reservedBits
  else decodeOp (opField w) (algField w) (digitsField w) (selField w)

/-- The word with the given fields and bits 31:13 zero (R91). -/
def packWord (op alg digits sel : Nat) : Word :=
  BitVec.ofNat 32 (op ||| (alg <<< 4) ||| (digits <<< 8) ||| (sel <<< 12))

/-- The encoder (R100 and the `Encoding` line of each command). -/
def encode : Instr → Word
  | .b32enc => packWord 1 0 0 0
  | .b32dec dest => packWord 2 0 0 dest.sel
  | .hmac alg src => packWord 3 alg.number 0 src.sel
  | .dtrunc digits => packWord 4 0 digits 0
  | .hotp alg digits => packWord 5 alg.number digits 0

/-- The command that takes the answer in `WAIT`, read from the latched word's fields as R137 and R167 read them
(`CMDW[3:0]` = 3 or 5); no other word is waited on. Log entry 13. -/
def waitingInstr (w : Word) : Option Instr :=
  match opField w with
  | 3 => some (.hmac (algOfNumber (algField w)) (srcOfSel (selField w)))
  | 5 => some (.hotp (algOfNumber (algField w)) (digitsField w))
  | _ => none

/-- The command word whose low `nbits` bits are those of `w`, every bit above them 0: a command is one word (R90). -/
def tableWord (nbits w : Nat) : Word := BitVec.ofNat 32 (w % 2 ^ nbits)

/-- The command the decoder reads from a word numbered as spec/opcode_table.json numbers its bits. -/
def decodeTableWord (nbits w : Nat) : Option Instr :=
  match decode (tableWord nbits w) with
  | .ok i => some i
  | .error _ => none

end Sys2Proof
end

