-- ==== Sys2Proof/Config.lean ====
section
/-! DEFINITION. What is a parameter of the machine and not its state (R5, R6, R8): the capacities, the functions the HMAC
core and its hash compute, and the values the spec leaves unspecified. An `opaque` constant has no body here, so no proof
can see a value of it. -/

namespace Sys2Proof

/-- `N_IBUF` (R5). -/
abbrev Config.nIbuf : Nat := 256
/-- `N_OBUF` (R5). -/
abbrev Config.nObuf : Nat := 512
/-- `N_KBUF` (R5). -/
abbrev Config.nKbuf : Nat := 256
/-- `N_DBUF` (R5). -/
abbrev Config.nDbuf : Nat := 64
/-- `DIGITS_MIN` (R5). -/
abbrev Config.digitsMin : Nat := 6
/-- `DIGITS_MAX` (R5). -/
abbrev Config.digitsMax : Nat := 10
/-- `DLEN_MIN` (R5). -/
abbrev Config.dlenMin : Nat := 20

/-- FREE VALUE `any8` (U1, U2): what the `n`-th draw reads from a buffer byte nothing has defined. Log entry 4. -/
opaque Config.anyByte : Nat → Byte

/-- FREE VALUE `any32` (U3): what the `n`-th draw reads, while busy, from a mapped word other than `STATUS`. Log entry 5. -/
opaque Config.anyWord : Nat → Word

/-- FREE (U5, R132): byte `i` of `hmac(alg, key, msg)`; nothing is assumed of it. Log entry 8. -/
opaque Config.hmacByte : Alg → List Byte → List Byte → Nat → Byte

/-- FREE (R133): byte `i` of the hash `H(msg)` of the algorithm; the spec names the hash functions and does not reproduce
them. Log entry 9. -/
opaque Config.hashByte : Alg → List Byte → Nat → Byte

end Sys2Proof
end

