-- ==== Sys2Proof/Machine/State.lean ====
section
/-! DEFINITION. The machine's state as plain data: the record of R20 and, after it, the model's own three fields. -/

namespace Sys2Proof.Machine

/-- The sequencer's phase, in place of a program counter (R22). -/
inductive Phase where
  | idle
  | exec
  | wait
  deriving DecidableEq, Repr

/-- A byte buffer (R26): the bytes that have a defined value, by rising index. A byte that is not listed is unspecified
(U1, U2): each read of it is a free value. Log entry 4. -/
abbrev Memory := List Host.Cell

/-- The request `(alg, key, msg)` (R131): values, copied when it is sent. -/
structure Request where
  alg : Alg
  key : List Byte
  msg : List Byte
  deriving DecidableEq, Repr

/-- The core's answer (R27, R136): `unavailable`, or `ok(dlen, d)` with `dlen` 0 to 127 and `d` of exactly 64 bytes. -/
inductive Answer where
  | unavailable
  | ok (dlen : Fin 128) (d : Vector Byte 64)
  deriving DecidableEq, Repr

/-- The HMAC channel (R27). -/
inductive Chan where
  | idle
  | req (r : Request)
  | resp (x : Answer)
  deriving DecidableEq, Repr

/-- The error kinds of R180. -/
inductive ErrKind where
  /-- code 0: no error -/
  | none
  /-- code 1: `HOTP` stage 1, the decoded secret has no byte -/
  | invalidSecret
  /-- code 2: pre-check 2 -/
  | unsupportedAlgorithm
  /-- code 3: pre-check 3 -/
  | invalidConfiguration
  /-- code 4: never raised, the block has no random source -/
  | randomSourceUnavailable
  /-- code 5: the core answered `unavailable` -/
  | digestUnavailable
  /-- code 6: a digest below 20 bytes at truncation, or an answer longer than 64 bytes -/
  | internalInvariant
  /-- code 7: pre-check 1 -/
  | illegalCommand
  /-- code 8: pre-check 4 -/
  | badLength
  deriving DecidableEq, Repr

/-- What the host port answers to one access (R63, R66, R67, R70, R71). -/
inductive HostResponse where
  /-- `ok` to a read, with the word -/
  | data (v : Word)
  /-- `ok` to a write -/
  | ok
  /-- the error response (R63) -/
  | hostFault
  deriving DecidableEq, Repr

/-- One atomic step of one agent, or the reset input (R7). Log entry 1. -/
inductive Move where
  /-- the sequencer's step (R96, R137, R167) -/
  | sequencer
  /-- the HMAC core's step, with the answer it chose (R136) -/
  | core (x : Answer)
  /-- a host read of the word at a byte address (R66, R71) -/
  | read (a : Addr)
  /-- a host write of a word at a byte address (R67, R70) -/
  | write (a : Addr) (v : Word)
  /-- the reset input (R220) -/
  | reset
  deriving DecidableEq, Repr

/-- The state. `phase` to `chan` are the record of R20, nothing added and nothing left out; `draws`, `response` and
`schedule` are the model's own. -/
@[ext]
structure State where
  /-- R22 -/
  phase : Phase
  /-- `CMDW` (R23) -/
  cmdw : Word
  /-- `STATUS.DONE` (R24) -/
  done : Bool
  /-- `STATUS.OVR` (R24) -/
  ovr : Bool
  /-- `STATUS.ERR` (R24) -/
  err : BitVec 4
  /-- `CTRL.IE` (R25) -/
  ie : Bool
  /-- `ILEN` (R21) -/
  ilen : Word
  /-- `OLEN` (R21) -/
  olen : Word
  /-- `KLEN` (R21) -/
  klen : Word
  /-- `DLEN` (R21) -/
  dlen : Word
  /-- `CTR` (R21) -/
  ctr : BitVec 64
  /-- `VALUE` (R21) -/
  value : Word
  /-- `CODE` (R21) -/
  code : Word
  /-- IBUF (R26) -/
  ibuf : Memory
  /-- OBUF (R26) -/
  obuf : Memory
  /-- KBUF (R26) -/
  kbuf : Memory
  /-- DBUF (R26) -/
  dbuf : Memory
  /-- the HMAC channel (R27) -/
  chan : Chan
  /-- the model's own: how many free values have been drawn. Log entry 6. -/
  draws : Nat
  /-- the model's own: the host port's answer to the last host access. Log entry 7. -/
  response : Option HostResponse
  /-- the model's own: the moves lined up, the next one first. Log entry 1. -/
  schedule : List Move
  deriving DecidableEq, Repr

/-- No step of this hardware stops the machine: every command word has a defined outcome (R99), an error is a completion
(R190), a bad host access is a response (R63), a silent core is a wait (R139). So no constructor: nobody raises a fault,
and that is safe, because there is nothing the model leaves undone by stopping. -/
inductive Fault
  deriving DecidableEq, Repr

/-- Why a command is not run. -/
inductive Refusal where
  /-- raised by an arm of `exec` whose command has no meaning yet; safe, because the machine stops. No arm of this model
  raises it. -/
  | notModelled (mnemonic : String)
  deriving DecidableEq, Repr

/-- The state after reset (R30): every value is the spec's, every buffer byte unspecified. The model's own fields start
empty (log entries 6, 7, 10). -/
def State.reset : State where
  phase := .idle
  cmdw := 0
  done := false
  ovr := false
  err := 0
  ie := false
  ilen := 0
  olen := 0
  klen := 0
  dlen := 0
  ctr := 0
  value := 0
  code := 0
  ibuf := []
  obuf := []
  kbuf := []
  dbuf := []
  chan := .idle
  draws := 0
  response := none
  schedule := []

end Sys2Proof.Machine
end

