-- ==== Sys2Proof/Machine/Ops.lean ====
section
/-! DEFINITION. The named operations over buffers, registers and the channel: reading and writing bytes, the completion of
a command (the analogue of taking an exception, R190), issue and acknowledge (its return, R192), the core's step, reset. -/

namespace Sys2Proof.Machine

/-! ## Buffers -/

/-- The defined value of byte `i`, none when it is unspecified (U1, U2). -/
def Memory.byteAt : Memory → Nat → Option Byte
  | [], _ => none
  | (a, b) :: rest, i => if a = i then some b else Memory.byteAt rest i

/-- Byte `i` takes the value `b`. -/
def Memory.setByte : Memory → Nat → Byte → Memory
  | [], i, b => [(i, b)]
  | (a, c) :: rest, i, b =>
    if i < a then (i, b) :: (a, c) :: rest
    else if i = a then (i, b) :: rest
    else (a, c) :: Memory.setByte rest i b

/-- The buffer whose defined bytes are `bs`, from index `i` upward. -/
def Memory.bytesFrom : Nat → List Byte → Memory
  | _, [] => []
  | i, b :: bs => (i, b) :: Memory.bytesFrom (i + 1) bs

/-- A buffer after a command wrote `bs` into it: indices 0 to `|bs| - 1` defined, every other byte unspecified (R26, R76). -/
def Memory.ofBytes (bs : List Byte) : Memory := Memory.bytesFrom 0 bs

/-- The indices rise strictly, each at least `lo` and below `cap`. -/
def Memory.rising (cap : Nat) : Nat → Memory → Bool
  | _, [] => true
  | lo, (a, _) :: rest => decide (lo ≤ a) && decide (a < cap) && Memory.rising cap (a + 1) rest

/-- The canonical form of a buffer of capacity `cap` (R26). An unlisted byte has no value of its own, so no listed byte can
repeat it. -/
def Memory.wf (cap : Nat) (m : Memory) : Bool := Memory.rising cap 0 m

/-- What a read of byte `i` gives: its value, or the `d`-th free value when it is unspecified (U1, U2, D25). -/
def Memory.readByte (m : Memory) (i d : Nat) : Byte := (m.byteAt i).getD (Config.anyByte d)

/-- What a command that reads bytes 0 to `n - 1` sees (R76); byte `j` takes draw `d + j` when it is unspecified. -/
def Memory.readBytes (m : Memory) (n d : Nat) : List Byte := (List.range n).map fun j => m.readByte j (d + j)

/-! ## Draws -/

/-- `n` draws are used up: no later read sees the same ones. Log entry 6. -/
def spend (n : Nat) (s : State) : State := { s with draws := s.draws + n }

/-! ## Completion, issue, acknowledge -/

/-- The number of an error kind (R180). -/
def ErrKind.code : ErrKind → BitVec 4
  | .none => 0
  | .invalidSecret => 1
  | .unsupportedAlgorithm => 2
  | .invalidConfiguration => 3
  | .randomSourceUnavailable => 4
  | .digestUnavailable => 5
  | .internalInvariant => 6
  | .illegalCommand => 7
  | .badLength => 8

/-- `complete(e)` (R190): the one way a command ends, with an error or without. -/
def complete (e : ErrKind) (s : State) : State := { s with err := e.code, done := true, phase := .idle }

/-- Issue (R68): the word is latched whatever it is. -/
def issue (v : Word) (s : State) : State := { s with cmdw := v, done := false, err := 0, phase := .exec }

/-- Acknowledge (R69): write 1 to clear `DONE` (bit 1) and `OVR` (bit 2); `ERR` is kept. -/
def acknowledge (v : Word) (s : State) : State :=
  { s with done := s.done && !v.getLsbD 1, ovr := s.ovr && !v.getLsbD 2 }

/-! ## Destinations -/

/-- The bytes of a result in OBUF and their number in `OLEN`. -/
def writeObuf (bs : List Byte) (s : State) : State :=
  { s with obuf := Memory.ofBytes bs, olen := BitVec.ofNat 32 bs.length }

/-- The bytes of a key in KBUF and their number in `KLEN`. -/
def writeKbuf (bs : List Byte) (s : State) : State :=
  { s with kbuf := Memory.ofBytes bs, klen := BitVec.ofNat 32 bs.length }

/-- The bytes of a digest in DBUF and their number in `DLEN`. -/
def writeDbuf (bs : List Byte) (s : State) : State :=
  { s with dbuf := Memory.ofBytes bs, dlen := BitVec.ofNat 32 bs.length }

/-- `VALUE` and `CODE`. -/
def writeCode (v c : Word) (s : State) : State := { s with value := v, code := c }

/-- OBUF and `OLEN` cleared: the length 0, every byte unspecified (R98). -/
def clearObuf (s : State) : State := { s with obuf := [], olen := 0 }
/-- KBUF and `KLEN` cleared (R98). -/
def clearKbuf (s : State) : State := { s with kbuf := [], klen := 0 }
/-- DBUF and `DLEN` cleared (R98). -/
def clearDbuf (s : State) : State := { s with dbuf := [], dlen := 0 }
/-- `VALUE` and `CODE` cleared (R98). -/
def clearCode (s : State) : State := { s with value := 0, code := 0 }

/-- `ClearDest` (R98): the destinations of each command, as the table of R98 lists them. -/
def clearDest (i : Instr) (s : State) : State :=
  match i with
  | .b32enc => clearObuf s
  | .b32dec .obuf => clearObuf s
  | .b32dec .kbuf => clearKbuf s
  | .hmac _ _ => clearDbuf s
  | .dtrunc _ => clearCode (clearObuf s)
  | .hotp _ _ => clearKbuf (clearDbuf (clearCode (clearObuf s)))

/-! ## The channel and reset -/

/-- The sequencer sends a request (R135, R166). -/
def sendRequest (r : Request) (s : State) : State := { s with chan := .req r, phase := .wait }

/-- The sequencer takes the answer off the channel (R137, R167). -/
def consumeAnswer (s : State) : State := { s with chan := .idle }

/-- `CoreRespond` (R136): enabled exactly when a request is outstanding; the core's choice `x` is an input
(log entry 3). Where no request is outstanding the move is used up without effect (log entry 2). -/
def coreRespond (x : Answer) (s : State) : State :=
  match s.chan with
  | .req _ => { s with chan := .resp x }
  | _ => s

/-- The host port answers an access. -/
def respond (r : HostResponse) (s : State) : State := { s with response := some r }

/-- The reset input (R220, R222): the whole record of R20 takes its reset value. The model's own count of draws and the
moves still lined up stay (log entry 16). -/
def resetBlock (s : State) : State := { State.reset with draws := s.draws, schedule := s.schedule }

end Sys2Proof.Machine
end

