-- ==== Sys2Proof/Machine/Operands.lean ====
section
/-! DEFINITION. The operands of commands: the counter's bytes, the slices of the buffers a command reads (R76), and the
checks 2 to 4 of the pre-check on fields and length registers (R97). -/

namespace Sys2Proof.Machine

/-- `ctrbytes(c)` (R134): eight bytes, the most significant first. -/
def ctrBytes (c : BitVec 64) : List Byte :=
  (List.range 8).map fun j => BitVec.ofNat 8 ((c.toNat >>> (8 * (7 - j))) &&& 255)

/-- `IBUF[0..ILEN)` as a command reads it. -/
def inputBytes (s : State) : List Byte := s.ibuf.readBytes s.ilen.toNat s.draws

/-- `KBUF[0..KLEN)` as a command reads it. -/
def keyBytes (s : State) : List Byte := s.kbuf.readBytes s.klen.toNat s.draws

/-- `DBUF[0..DLEN)` as a command reads it. -/
def digestBytes (s : State) : List Byte := s.dbuf.readBytes s.dlen.toNat s.draws

/-- The message of an `HMAC` command (R95, R134). -/
def messageBytes (src : MsgSrc) (s : State) : List Byte :=
  match src with
  | .ibuf => inputBytes s
  | .ctr => ctrBytes s.ctr

/-- How many draws reading that message may use. -/
def messageDraws (src : MsgSrc) (s : State) : Nat :=
  match src with
  | .ibuf => s.ilen.toNat
  | .ctr => 0

/-! ## The pre-check after decoding (R97 checks 2 to 4) -/

/-- Check 2. -/
def algCheck : AlgId → ErrKind
  | .known _ => .none
  | .unsupported _ => .unsupportedAlgorithm

/-- Check 3. -/
def digitsCheck (digits : Nat) : ErrKind :=
  if digits < Config.digitsMin ∨ Config.digitsMax < digits then .invalidConfiguration else .none

/-- Check 4, on one length register and the capacity of its buffer. -/
def lengthCheck (len : Word) (cap : Nat) : ErrKind := if cap < len.toNat then .badLength else .none

/-- Check 4 on the message of `HMAC`: `ILEN` is read only when `SEL` = 0. -/
def messageCheck (src : MsgSrc) (s : State) : ErrKind :=
  match src with
  | .ibuf => lengthCheck s.ilen Config.nIbuf
  | .ctr => .none

/-- The first error of a list of checks made in order (R97, R184). -/
def firstError : List ErrKind → ErrKind
  | [] => .none
  | e :: rest => if e = .none then firstError rest else e

/-- The checks that fail complete the command at once and change no data state; else its body runs (R96). -/
def preChecked (checks : List ErrKind) (body : State → State) (s : State) :
    Host.Outcome State Fault Refusal :=
  if firstError checks = .none then .next (body s) else .next (complete (firstError checks) s)

end Sys2Proof.Machine
end

