-- ==== Sys2Proof/Machine/Base32.lean ====
section
/-! DEFINITION. The Base32 encoder and decoder and their commands (R110 to R117). -/

namespace Sys2Proof.Machine

/-- `sym(v)` for `v` in 0 to 31 (R110): `A` to `Z`, then `2` to `7`. -/
def sym (v : Nat) : Byte := if v ≤ 25 then BitVec.ofNat 8 (0x41 + v) else BitVec.ofNat 8 (0x32 + (v - 26))

/-- `charval(c)` (R113): the value of an alphabet character of either case, none for a byte that is skipped. -/
def charval (c : Byte) : Option Nat :=
  if 0x41 ≤ c.toNat ∧ c.toNat ≤ 0x5A then some (c.toNat - 0x41)
  else if 0x61 ≤ c.toNat ∧ c.toNat ≤ 0x7A then some (c.toNat - 0x61)
  else if 0x32 ≤ c.toNat ∧ c.toNat ≤ 0x37 then some (c.toNat - 0x32 + 26)
  else none

/-- The number a sequence of digits spells in base `base`, the first digit most significant. -/
def numeral (base : Nat) (ds : List Nat) : Nat := ds.foldl (fun n d => n * base + d) 0

/-- `b32enc(b)` in the arithmetic of R111: `m = ceil(8n/5)` groups of five bits, the last filled with `p` zero bits. -/
def b32enc (b : List Byte) : List Byte :=
  let n := b.length
  let m := (8 * n + 4) / 5
  let p := 5 * m - 8 * n
  let N := numeral 256 (b.map BitVec.toNat)
  (List.range m).map fun j => sym (((N <<< p) >>> (5 * (m - 1 - j))) &&& 31)

/-- `b32dec(t)` in the arithmetic of R114: the `m = floor(5k/8)` complete bytes of the `k` values, the rest discarded. -/
def b32dec (t : List Byte) : List Byte :=
  let vs := t.filterMap charval
  let k := vs.length
  let m := 5 * k / 8
  let r := 5 * k - 8 * m
  let V := numeral 32 vs
  (List.range m).map fun i => BitVec.ofNat 8 (((V >>> r) >>> (8 * (m - 1 - i))) &&& 255)

/-- The body of `B32ENC` (R112), from `ClearDest` on. -/
def b32encBody (s : State) : State :=
  let s := clearDest .b32enc s
  complete .none (writeObuf (b32enc (inputBytes s)) (spend s.ilen.toNat s))

/-- `B32ENC` (R96, R112). -/
def execB32enc (s : State) : Host.Outcome State Fault Refusal :=
  preChecked [lengthCheck s.ilen Config.nIbuf] b32encBody s

/-- Where `B32DEC` writes (R95, R115). -/
def writeDecoded (dest : DecDest) (y : List Byte) (s : State) : State :=
  match dest with
  | .obuf => writeObuf y s
  | .kbuf => writeKbuf y s

/-- The body of `B32DEC` (R115), from `ClearDest` on. -/
def b32decBody (dest : DecDest) (s : State) : State :=
  let s := clearDest (.b32dec dest) s
  complete .none (writeDecoded dest (b32dec (inputBytes s)) (spend s.ilen.toNat s))

/-- `B32DEC` (R96, R115). -/
def execB32dec (dest : DecDest) (s : State) : Host.Outcome State Fault Refusal :=
  preChecked [lengthCheck s.ilen Config.nIbuf] (b32decBody dest) s

end Sys2Proof.Machine
end

