-- ==== Sys2Proof/Machine/Dtrunc.lean ====
section
/-! DEFINITION. The dynamic-truncation unit (R150 to R156) and the command `DTRUNC` (R153). -/

namespace Sys2Proof.Machine

/-- Byte `i` of a sequence. Outside the sequence, where no rule reads, it is 0 (log entry 14). -/
def byteOf (d : List Byte) (i : Nat) : Byte := d.getD i 0

/-- `dt_offset(d)` (R150): the low nibble of the last byte. -/
def dtOffset (d : List Byte) : Nat := (byteOf d (d.length - 1) &&& 0x0F).toNat

/-- `dt_value(d)` (R150): four bytes from the offset, most significant first, the top bit cleared. -/
def dtValue (d : List Byte) : Word :=
  let o := dtOffset d
  ((byteOf d o &&& 0x7F).setWidth 32 <<< 24) ||| ((byteOf d (o + 1)).setWidth 32 <<< 16) |||
    ((byteOf d (o + 2)).setWidth 32 <<< 8) ||| (byteOf d (o + 3)).setWidth 32

/-- `dt_code(v, digits) = v mod 10^digits` (R151). -/
def dtCode (v : Word) (digits : Nat) : Word := BitVec.ofNat 32 (v.toNat % 10 ^ digits)

/-- `render(c, digits)` (R152): exactly `digits` ASCII digits, padded on the left with `'0'`. -/
def render (c digits : Nat) : List Byte :=
  (List.range digits).map fun j => BitVec.ofNat 8 (0x30 + (c / 10 ^ (digits - 1 - j)) % 10)

/-- The code of the digest `d` into `VALUE`, `CODE`, OBUF and `OLEN` (R153, R167). -/
def deriveCode (d : List Byte) (digits : Nat) (s : State) : State :=
  let v := dtValue d
  let c := dtCode v digits
  writeObuf (render c.toNat digits) (writeCode v c s)

/-- The body of `DTRUNC` (R153), from `ClearDest` on. -/
def dtruncBody (digits : Nat) (s : State) : State :=
  let s := clearDest (.dtrunc digits) s
  if s.dlen.toNat < Config.dlenMin then complete .internalInvariant s
  else complete .none (deriveCode (digestBytes s) digits (spend s.dlen.toNat s))

/-- `DTRUNC` (R96, R153). -/
def execDtrunc (digits : Nat) (s : State) : Host.Outcome State Fault Refusal :=
  preChecked [digitsCheck digits, lengthCheck s.dlen Config.nDbuf] (dtruncBody digits) s

end Sys2Proof.Machine
end

