-- ==== Sys2Proof/Machine/Hmac.lean ====
section
/-! DEFINITION. The HMAC core's contract (R130 to R133) and the command `HMAC` in its two stages (R135, R137). -/

namespace Sys2Proof.Machine

/-- `outlen(alg)` (R93): 20, 32, 64 bytes. -/
def outlen : Alg → Nat
  | .sha1 => 20
  | .sha256 => 32
  | .sha512 => 64

/-- The hash block size `B` of R133. -/
def blocklen : Alg → Nat
  | .sha1 => 64
  | .sha256 => 64
  | .sha512 => 128

/-- `hmac(alg, key, msg)` (R132): total, of exactly `outlen(alg)` bytes, nothing else assumed. -/
def hmac (alg : Alg) (key msg : List Byte) : List Byte :=
  (List.range (outlen alg)).map (Config.hmacByte alg key msg)

/-- The hash `H` of R133, of `outlen(alg)` bytes. -/
def hash (alg : Alg) (msg : List Byte) : List Byte := (List.range (outlen alg)).map (Config.hashByte alg msg)

/-- The intended `hmac` (R133): the construction of RFC 2104 over `H`. No step uses it; log entry 9. -/
def intendedHmac (alg : Alg) (key msg : List Byte) : List Byte :=
  let B := blocklen alg
  let K0 := if B < key.length then hash alg key else key
  let K' := K0 ++ List.replicate (B - K0.length) 0x00
  hash alg (K'.map (· ^^^ 0x5C) ++ hash alg (K'.map (· ^^^ 0x36) ++ msg))

/-- Stage 1 of `HMAC` from `ClearDest` on (R135): the key is read, then the message (log entry 15), and the
request is sent. -/
def hmacSend (alg : Alg) (src : MsgSrc) (s : State) : State :=
  let s := clearDest (.hmac (.known alg) src) s
  let key := keyBytes s
  let s := spend s.klen.toNat s
  let msg := messageBytes src s
  sendRequest ⟨alg, key, msg⟩ (spend (messageDraws src s) s)

/-- Stage 2 of `HMAC` for the answer `x`, the channel already idle (R137). -/
def hmacStore (x : Answer) (s : State) : State :=
  match x with
  | .unavailable => complete .digestUnavailable s
  | .ok dlen d =>
    if Config.nDbuf < dlen.val then complete .internalInvariant s
    else complete .none (writeDbuf (d.toList.take dlen.val) s)

/-- Stage 2 of `HMAC`: enabled when the core has answered (R137); until then the command waits (R139). -/
def hmacTake (s : State) : State :=
  match s.chan with
  | .resp x => hmacStore x (consumeAnswer s)
  | _ => s

/-- Stage 1 of `HMAC` with its pre-check (R97, R135): a known algorithm only. -/
def hmacStart (alg : AlgId) (src : MsgSrc) (s : State) : Host.Outcome State Fault Refusal :=
  match alg with
  | .unsupported _ => .next (complete (algCheck alg) s)
  | .known a => preChecked [lengthCheck s.klen Config.nKbuf, messageCheck src s] (hmacSend a src) s

/-- `HMAC` (R96, R135, R137): in `WAIT` its stage 2, else its stage 1 (log entry 17). -/
def execHmac (alg : AlgId) (src : MsgSrc) (s : State) : Host.Outcome State Fault Refusal :=
  match s.phase with
  | .wait => .next (hmacTake s)
  | _ => hmacStart alg src s

end Sys2Proof.Machine
end

