-- ==== Sys2Proof/Machine/Hotp.lean ====
section
/-! DEFINITION. The generate chain: the function `hotp` (R165) and the command `HOTP` in its two stages (R166, R167). -/

namespace Sys2Proof.Machine

/-- `hotp(text, c, alg, digits)` (R165), for a text whose key is not empty. -/
def hotp (text : List Byte) (c : BitVec 64) (alg : Alg) (digits : Nat) : List Byte :=
  render (dtCode (dtValue (hmac alg (b32dec text) (ctrBytes c))) digits).toNat digits

/-- Stage 1 of `HOTP` from `ClearDest` on (R166): decode the secret, check it, send the request. -/
def hotpSend (alg : Alg) (digits : Nat) (s : State) : State :=
  let s := clearDest (.hotp (.known alg) digits) s
  let key := b32dec (inputBytes s)
  let s := writeKbuf key (spend s.ilen.toNat s)
  if key.length = 0 then complete .invalidSecret s
  else sendRequest ⟨alg, key, ctrBytes s.ctr⟩ s

/-- Stage 2 of `HOTP` for the answer `x`, the channel already idle (R167). -/
def hotpDerive (digits : Nat) (x : Answer) (s : State) : State :=
  match x with
  | .unavailable => complete .digestUnavailable s
  | .ok dlen d =>
    if Config.nDbuf < dlen.val then complete .internalInvariant s
    else
      let digest := d.toList.take dlen.val
      let s := writeDbuf digest s
      if dlen.val < Config.dlenMin then complete .internalInvariant s
      else complete .none (deriveCode digest digits s)

/-- Stage 2 of `HOTP`: enabled when the core has answered (R167); until then the command waits (R139). -/
def hotpTake (digits : Nat) (s : State) : State :=
  match s.chan with
  | .resp x => hotpDerive digits x (consumeAnswer s)
  | _ => s

/-- Stage 1 of `HOTP` with its pre-check (R97, R166): a known algorithm only. -/
def hotpStart (alg : AlgId) (digits : Nat) (s : State) : Host.Outcome State Fault Refusal :=
  match alg with
  | .unsupported _ => .next (complete (algCheck alg) s)
  | .known a => preChecked [digitsCheck digits, lengthCheck s.ilen Config.nIbuf] (hotpSend a digits) s

/-- `HOTP` (R96, R166, R167): in `WAIT` its stage 2, else its stage 1 (log entry 17). -/
def execHotp (alg : AlgId) (digits : Nat) (s : State) : Host.Outcome State Fault Refusal :=
  match s.phase with
  | .wait => .next (hotpTake digits s)
  | _ => hotpStart alg digits s

end Sys2Proof.Machine
end

