-- ==== Sys2Proof/Machine/Dispatch.lean ====
section
/-! DEFINITION. The sequencer's step for a decoded command (R96): one arm per constructor of Instr. -/

namespace Sys2Proof.Machine

def exec (i : Instr) (s : State) : Host.Outcome State Fault Refusal :=
  match i with
  | .b32enc => Sys2Proof.Machine.execB32enc s
  | .b32dec dest => Sys2Proof.Machine.execB32dec dest s
  | .hmac alg src => Sys2Proof.Machine.execHmac alg src s
  | .dtrunc digits => Sys2Proof.Machine.execDtrunc digits s
  | .hotp alg digits => Sys2Proof.Machine.execHotp alg digits s

end Sys2Proof.Machine
end

