-- ==== Sys2Proof/Machine/Flags.lean ====
section
/-! DEFINITION. What is computed from the state and not stored: `BUSY`, `irq`, and the words `STATUS` and `CTRL` read as
(R24, R25, R29, R66, R71). -/

namespace Sys2Proof.Machine

/-- `BUSY` (R24): 1 exactly when the phase is `EXEC` or `WAIT`. -/
def State.busy (s : State) : Bool := decide (s.phase ≠ .idle)

/-- `irq = IE & DONE` (R29, R194), a level. -/
def State.irq (s : State) : Bool := s.ie && s.done

/-- A flag as bit `k` of a word. -/
def flagBit (b : Bool) (k : Nat) : Word := if b then (1 : Word) <<< k else 0

/-- `STATUS` read while idle (R66): bit 0 = 0, bit 1 `DONE`, bit 2 `OVR`, bits 7:4 `ERR`, the others 0. -/
def State.idleStatus (s : State) : Word :=
  flagBit s.done 1 ||| flagBit s.ovr 2 ||| (s.err.setWidth 32 <<< 4)

/-- `STATUS` read while busy (R71): bit 0 = 1, bit 1 = 0, bit 2 `OVR`, the others 0. -/
def State.busyStatus (s : State) : Word := 1 ||| flagBit s.ovr 2

/-- `CTRL` as it reads (R25): bit 0 `IE`, the others 0. -/
def State.ctrlWord (s : State) : Word := flagBit s.ie 0

end Sys2Proof.Machine
end

