-- ==== Sys2Proof/Machine/Window.lean ====
section
/-! DEFINITION. The register window: the address map (R61), the check of an access (R62, R63), byte lanes (R64), and host
reads and writes, idle and busy (R66, R67, R70, R71). -/

namespace Sys2Proof.Machine

/-- What stands at a mapped word of the window (R61); a buffer's word by its index from the buffer's base. -/
inductive Reg where
  | cmd
  | status
  | ctrl
  | ilen
  | olen
  | klen
  | dlen
  | ctrLo
  | ctrHi
  | value
  | code
  | ibuf (w : Nat)
  | obuf (w : Nat)
  | kbuf (w : Nat)
  | dbuf (w : Nat)
  deriving DecidableEq, Repr

/-- The two kinds of access. -/
inductive Access where
  | read
  | write
  deriving DecidableEq, Repr

/-- The map of R61, for a word-aligned address given as a number. -/
def regAtNumber (n : Nat) : Option Reg :=
  if n = 0x000 then some .cmd
  else if n = 0x004 then some .status
  else if n = 0x008 then some .ctrl
  else if n = 0x010 then some .ilen
  else if n = 0x014 then some .olen
  else if n = 0x018 then some .klen
  else if n = 0x01C then some .dlen
  else if n = 0x020 then some .ctrLo
  else if n = 0x024 then some .ctrHi
  else if n = 0x028 then some .value
  else if n = 0x02C then some .code
  else if 0x100 ≤ n ∧ n ≤ 0x1FF then some (.ibuf ((n - 0x100) / 4))
  else if 0x200 ≤ n ∧ n ≤ 0x3FF then some (.obuf ((n - 0x200) / 4))
  else if 0x400 ≤ n ∧ n ≤ 0x4FF then some (.kbuf ((n - 0x400) / 4))
  else if 0x500 ≤ n ∧ n ≤ 0x53F then some (.dbuf ((n - 0x500) / 4))
  else none

/-- The words the host may not write (R61, R63 (c)). -/
def Reg.readOnly : Reg → Bool
  | .olen => true
  | .value => true
  | .code => true
  | .obuf _ => true
  | _ => false

/-- `HostCheck` (R63): the word an access reaches, none for `HostFault`. -/
def hostCheck (kind : Access) (a : Addr) : Option Reg :=
  if a.toNat % 4 ≠ 0 then none
  else
    match regAtNumber a.toNat with
    | none => none
    | some r => if kind = .write ∧ r.readOnly = true then none else some r

/-! ## Lanes (R64) -/

/-- Lane `k` of a word: bits `8k+7:8k`. -/
def lane (v : Word) (k : Nat) : Byte := v.extractLsb' (8 * k) 8

/-- The word whose lanes 0 to 3 are the four bytes. -/
def joinLanes (b0 b1 b2 b3 : Byte) : Word := b3 ++ b2 ++ b1 ++ b0

/-- Word `w` of a buffer as it reads, from draw `d` on for its unspecified bytes. -/
def bufferWord (m : Memory) (w d : Nat) : Word :=
  joinLanes (m.readByte (4 * w) d) (m.readByte (4 * w + 1) (d + 1)) (m.readByte (4 * w + 2) (d + 2))
    (m.readByte (4 * w + 3) (d + 3))

/-- Word `w` of a buffer written: all four bytes, always. -/
def writeBufferWord (m : Memory) (w : Nat) (v : Word) : Memory :=
  (((m.setByte (4 * w) (lane v 0)).setByte (4 * w + 1) (lane v 1)).setByte (4 * w + 2) (lane v 2)).setByte (4 * w + 3)
    (lane v 3)

/-! ## Accesses -/

/-- What a read at a mapped word returns while idle (R66). -/
def readValue (r : Reg) (s : State) : Word :=
  match r with
  | .cmd => s.cmdw
  | .status => s.idleStatus
  | .ctrl => s.ctrlWord
  | .ilen => s.ilen
  | .olen => s.olen
  | .klen => s.klen
  | .dlen => s.dlen
  | .ctrLo => s.ctr.extractLsb' 0 32
  | .ctrHi => s.ctr.extractLsb' 32 32
  | .value => s.value
  | .code => s.code
  | .ibuf w => bufferWord s.ibuf w s.draws
  | .obuf w => bufferWord s.obuf w s.draws
  | .kbuf w => bufferWord s.kbuf w s.draws
  | .dbuf w => bufferWord s.dbuf w s.draws

/-- How many draws that read may use: one per byte of a buffer word. -/
def readDraws : Reg → Nat
  | .ibuf _ => 4
  | .obuf _ => 4
  | .kbuf _ => 4
  | .dbuf _ => 4
  | _ => 0

/-- A read of a mapped word while busy (R71): `STATUS` is defined, any other word is a free value. -/
def readBusy (r : Reg) (s : State) : State :=
  if r = .status then respond (.data s.busyStatus) s
  else respond (.data (Config.anyWord s.draws)) (spend 1 s)

/-- A host read (R63, R66, R71): no effect on the record of R20. -/
def hostRead (a : Addr) (s : State) : State :=
  match hostCheck .read a with
  | none => respond .hostFault s
  | some r => if s.busy then readBusy r s else respond (.data (readValue r s)) (spend (readDraws r) s)

/-- The effect of a write of `v` at a mapped, writable word while idle (R67, R68, R69). A read-only word never gets here
(R63); it would keep the state (log entry 19). -/
def writeReg (r : Reg) (v : Word) (s : State) : State :=
  match r with
  | .cmd => issue v s
  | .status => acknowledge v s
  | .ctrl => { s with ie := v.getLsbD 0 }
  | .ilen => { s with ilen := v }
  | .klen => { s with klen := v }
  | .dlen => { s with dlen := v }
  | .ctrLo => { s with ctr := s.ctr.extractLsb' 32 32 ++ v }
  | .ctrHi => { s with ctr := v ++ s.ctr.extractLsb' 0 32 }
  | .ibuf w => { s with ibuf := writeBufferWord s.ibuf w v }
  | .kbuf w => { s with kbuf := writeBufferWord s.kbuf w v }
  | .dbuf w => { s with dbuf := writeBufferWord s.dbuf w v }
  | .olen => s
  | .value => s
  | .code => s
  | .obuf _ => s

/-- A host write (R63, R67, R70): while busy it is dropped and sets `OVR`. -/
def hostWrite (a : Addr) (v : Word) (s : State) : State :=
  match hostCheck .write a with
  | none => respond .hostFault s
  | some r => if s.busy then respond .ok { s with ovr := true } else respond .ok (writeReg r v s)

end Sys2Proof.Machine
end

