-- ==== Sys2Proof/Machine/Sequencer.lean ====
section
/-! DEFINITION. One turn of the machine: the sequencer's own step (R96, R137, R167) and the move of whichever agent is next
(R7). -/

namespace Sys2Proof.Machine

/-- The sequencer's step from `EXEC` (R96): a word that spells no command completes with `IllegalCommand`. -/
def runCommand (s : State) : Host.Outcome State Fault Refusal :=
  match decode s.cmdw with
  | .ok i => exec i s
  | .error _ => .next (complete .illegalCommand s)

/-- The sequencer's step from `WAIT` (R137, R167). -/
def runWaiting (s : State) : Host.Outcome State Fault Refusal :=
  match waitingInstr s.cmdw with
  | some i => exec i s
  | none => .next s

/-- The sequencer's step; where none is enabled the block holds its state (R139, R200; log
entry 2). -/
def sequencerStep (s : State) : Host.Outcome State Fault Refusal :=
  match s.phase with
  | .idle => .next s
  | .exec => runCommand s
  | .wait => runWaiting s

/-- The step of the agent the move names (R7). -/
def makeMove (m : Move) (s : State) : Host.Outcome State Fault Refusal :=
  match m with
  | .sequencer => sequencerStep s
  | .core x => .next (coreRespond x s)
  | .read a => .next (hostRead a s)
  | .write a v => .next (hostWrite a v s)
  | .reset => .next (resetBlock s)

/-- One turn: the first move lined up; the sequencer's when there is none (log entry 1). -/
def takeTurn (s : State) : Host.Outcome State Fault Refusal :=
  match s.schedule with
  | [] => sequencerStep s
  | m :: rest => makeMove m { s with schedule := rest }

/-- A command word placed as issue places it (R68), the sequencer's move next. Log entry 10. -/
def placeCommand (v : Word) (s : State) : State := issue v { s with schedule := [] }

end Sys2Proof.Machine
end

