-- ==== Sys2Proof/Machine/Step.lean ====
section
/-! DEFINITION. The machine's step, and the command word placed where the next step takes it from. -/

namespace Sys2Proof.Machine

/-- One atomic step of one agent (R7). -/
def step (s : State) : Host.Outcome State Fault Refusal := takeTurn s

/-- `s` with the word numbered as spec/opcode_table.json numbers its bits issued, so that the next step runs it. -/
def State.withFetchWord (s : State) (nbits w : Nat) : State := placeCommand (tableWord nbits w) s

end Sys2Proof.Machine
end

