-- ==== Sys2Proof/Machine/Script.lean ====
section
/-! DEFINITION. The syntax of R101 and the host-script actions of R102, as lists of moves. -/

namespace Sys2Proof.Machine

/-- `<alg>` (R101). -/
def asmAlg : AlgId → String
  | .known .sha1 => "SHA1"
  | .known .sha256 => "SHA256"
  | .known .sha512 => "SHA512"
  | .unsupported n => "#" ++ toString n

/-- The assembler's line for a command (R101). -/
def asm : Instr → String
  | .b32enc => "B32ENC"
  | .b32dec .obuf => "B32DEC OBUF"
  | .b32dec .kbuf => "B32DEC KBUF"
  | .hmac alg .ibuf => "HMAC " ++ asmAlg alg ++ ", IBUF"
  | .hmac alg .ctr => "HMAC " ++ asmAlg alg ++ ", CTR"
  | .dtrunc digits => "DTRUNC " ++ toString digits
  | .hotp alg digits => "HOTP " ++ asmAlg alg ++ ", " ++ toString digits

/-- The address of a name of R61. -/
def addrOf : Reg → Addr
  | .cmd => 0x000
  | .status => 0x004
  | .ctrl => 0x008
  | .ilen => 0x010
  | .olen => 0x014
  | .klen => 0x018
  | .dlen => 0x01C
  | .ctrLo => 0x020
  | .ctrHi => 0x024
  | .value => 0x028
  | .code => 0x02C
  | .ibuf w => BitVec.ofNat 12 (0x100 + 4 * w)
  | .obuf w => BitVec.ofNat 12 (0x200 + 4 * w)
  | .kbuf w => BitVec.ofNat 12 (0x400 + 4 * w)
  | .dbuf w => BitVec.ofNat 12 (0x500 + 4 * w)

/-- `WR name, v` (R102). -/
def scriptWr (r : Reg) (v : Word) : Move := .write (addrOf r) v
/-- `RD name` (R102). -/
def scriptRd (r : Reg) : Move := .read (addrOf r)
/-- `CMD <command>` (R102). -/
def scriptCmd (i : Instr) : Move := scriptWr .cmd (encode i)

/-- `PUT B, <bytes>` from word `w` on (R102), `reg` the buffer's words; bytes past the end are taken as 0. -/
def scriptPutFrom (reg : Nat → Reg) : Nat → List Byte → List Move
  | _, [] => []
  | w, [a] => [scriptWr (reg w) (joinLanes a 0 0 0)]
  | w, [a, b] => [scriptWr (reg w) (joinLanes a b 0 0)]
  | w, [a, b, c] => [scriptWr (reg w) (joinLanes a b c 0)]
  | w, a :: b :: c :: d :: rest => scriptWr (reg w) (joinLanes a b c d) :: scriptPutFrom reg (w + 1) rest

/-- `PUT B, <bytes>` (R102). -/
def scriptPut (reg : Nat → Reg) (bs : List Byte) : List Move := scriptPutFrom reg 0 bs

/-- The reads of `GET B, n` (R102). -/
def scriptGet (reg : Nat → Reg) (n : Nat) : List Move := (List.range ((n + 3) / 4)).map fun w => scriptRd (reg w)

/-- What `GET B, n` yields from the words read (R64, R102). -/
def gotBytes (n : Nat) (ws : List Word) : List Byte := (ws.flatMap fun v => [lane v 0, lane v 1, lane v 2, lane v 3]).take n

/-- `n` polls of `WAIT` (R102): each is `RD STATUS`; the host stops at the first whose bit 0 is 0, so a script that waits is
one of these for some `n`. Log entry 18. -/
def scriptPolls (n : Nat) : List Move := List.replicate n (scriptRd .status)

/-- Whether the poll just answered ends a `WAIT` (R102). -/
def waitEnds (s : State) : Bool :=
  match s.response with
  | some (.data v) => !v.getLsbD 0
  | _ => false

end Sys2Proof.Machine
end

