-- ==== Sys2Proof/Safety.lean ====
section
/-! DEFINITION. What a good run is, in the terms claims use: the invariants of reachable states (R31 and the canonical form
of the buffers), a conforming answer of the core (R132), the final states of a run (R230). -/

namespace Sys2Proof.Machine

/-- The error codes the hardware writes (R180): 0 to 3 and 5 to 8. -/
def writableErr (e : BitVec 4) : Bool := decide (e ≠ 4) && decide (e.toNat ≤ 8)

/-- The word waited on: an `HMAC` or a `HOTP` that passed its field checks (R22, R97). -/
def waitable (w : Word) : Bool :=
  match decode w with
  | .ok (.hmac alg _) => alg.legal
  | .ok (.hotp alg digits) => alg.legal && digitsLegal digits
  | _ => false

/-- A request is no larger than its buffers (R131). -/
def Request.fits (r : Request) : Bool := decide (r.key.length ≤ Config.nKbuf) && decide (r.msg.length ≤ Config.nIbuf)

/-- The channel against the phase (R27, R31 (d)): `Req` or `Resp` in `WAIT`, `Idle` otherwise. -/
def channelFits (s : State) : Bool :=
  match s.phase, s.chan with
  | .wait, .req r => r.fits
  | .wait, .resp _ => true
  | .wait, .idle => false
  | _, .idle => true
  | _, _ => false

/-- Every buffer is in canonical form, within its capacity (R26). -/
structure BuffersWf (s : State) : Prop where
  ibuf : s.ibuf.wf Config.nIbuf = true
  obuf : s.obuf.wf Config.nObuf = true
  kbuf : s.kbuf.wf Config.nKbuf = true
  dbuf : s.dbuf.wf Config.nDbuf = true

/-- The invariants of R31, with what R22 says of `WAIT` and what R180 says of the codes. -/
structure StateInv (s : State) : Prop where
  /-- R31 (b) -/
  done_idle : s.done = true → s.phase = .idle
  /-- R31 (c): a nonzero code is only seen between a completion and the next issue -/
  err_idle : s.err ≠ 0 → s.phase = .idle
  /-- R180 -/
  err_writable : writableErr s.err = true
  /-- R31 (d) -/
  channel : channelFits s = true
  /-- R22: only `HMAC` and `HOTP` enter `WAIT` -/
  waiting : s.phase = .wait → waitable s.cmdw = true
  /-- R31 (e) -/
  olen_le : s.olen.toNat ≤ 410
  /-- R31 (f) -/
  value_lt : s.value.toNat < 2 ^ 31
  /-- R31 (f) -/
  code_le : s.code.toNat ≤ s.value.toNat

/-- A conforming answer to the request `r` (R132): `unavailable`, or `ok(outlen(alg), d)` whose first bytes are
`hmac(alg, key, msg)`. -/
def Conforming (r : Request) (x : Answer) : Prop :=
  match x with
  | .unavailable => True
  | .ok dlen d => dlen.val = outlen r.alg ∧ d.toList.take (outlen r.alg) = hmac r.alg r.key r.msg

/-- What R28 says no command writes, with the moves and the port's answer, which are the environment's. -/
def KeptByCommands (s t : State) : Prop :=
  t.ovr = s.ovr ∧ t.ie = s.ie ∧ t.ilen = s.ilen ∧ t.ctr = s.ctr ∧ t.ibuf = s.ibuf ∧ t.cmdw = s.cmdw ∧
    t.response = s.response ∧ t.schedule = s.schedule

/-- The data registers and buffers are equal (R191: exactly as at issue). -/
def SameData (s t : State) : Prop :=
  t.ilen = s.ilen ∧ t.olen = s.olen ∧ t.klen = s.klen ∧ t.dlen = s.dlen ∧ t.ctr = s.ctr ∧ t.value = s.value ∧
    t.code = s.code ∧ t.ibuf = s.ibuf ∧ t.obuf = s.obuf ∧ t.kbuf = s.kbuf ∧ t.dbuf = s.dbuf

/-- A run has ended (R230): nothing is lined up and the block is idle. -/
def State.final (s : State) : Bool := decide (s.schedule = []) && decide (s.phase = .idle)

/-! ## Rules as they are written, for claims that compare the model with them -/

/-- `PreCheck(w)`, line by line as R97 writes it, over the word's number. -/
def preCheckR97 (w ilen klen dlen : Word) : ErrKind :=
  let op := w.toNat % 16
  let alg := w.toNat / 16 % 16
  let digits := w.toNat / 256 % 16
  let sel := w.toNat / 4096 % 2
  if w.toNat / 8192 ≠ 0 then .illegalCommand
  else if ¬(op = 1 ∨ op = 2 ∨ op = 3 ∨ op = 4 ∨ op = 5) then .illegalCommand
  else if (op = 1 ∨ op = 2 ∨ op = 4) ∧ alg ≠ 0 then .illegalCommand
  else if (op = 1 ∨ op = 2 ∨ op = 3) ∧ digits ≠ 0 then .illegalCommand
  else if (op = 1 ∨ op = 4 ∨ op = 5) ∧ sel ≠ 0 then .illegalCommand
  else if (op = 3 ∨ op = 5) ∧ ¬(alg = 0 ∨ alg = 1 ∨ alg = 2) then .unsupportedAlgorithm
  else if (op = 4 ∨ op = 5) ∧ (digits < 6 ∨ digits > 10) then .invalidConfiguration
  else if (op = 1 ∨ op = 2 ∨ op = 5) ∧ ilen.toNat > 256 then .badLength
  else if op = 3 ∧ klen.toNat > 256 then .badLength
  else if op = 3 ∧ sel = 0 ∧ ilen.toNat > 256 then .badLength
  else if op = 4 ∧ dlen.toNat > 64 then .badLength
  else .none

/-- The mapped addresses of R61's table, aligned or not. -/
def mappedR61 (n : Nat) : Bool :=
  decide (n < 0x00C) || (decide (0x010 ≤ n) && decide (n < 0x030)) || (decide (0x100 ≤ n) && decide (n < 0x400)) ||
    (decide (0x400 ≤ n) && decide (n < 0x500)) || (decide (0x500 ≤ n) && decide (n < 0x540))

/-- The mapped addresses of R61's table that the host may only read: `OLEN`, `VALUE`, `CODE`, OBUF. -/
def readOnlyR61 (n : Nat) : Bool :=
  (decide (0x014 ≤ n) && decide (n < 0x018)) || (decide (0x028 ≤ n) && decide (n < 0x030)) ||
    (decide (0x200 ≤ n) && decide (n < 0x400))

/-- The access gets `HostFault` (R63 (a), (b), (c)). -/
def faultsR63 (kind : Access) (a : Addr) : Bool :=
  decide (a.toNat % 4 ≠ 0) || !mappedR61 a.toNat || (decide (kind = .write) && readOnlyR61 a.toNat)

/-- The bits of a byte, bit 7 first (R111). -/
def byteBits (b : Byte) : List Bool := (List.range 8).map fun k => b.getLsbD (7 - k)

/-- The bits of a 5-bit value, bit 4 first (R114). -/
def valueBits (v : Nat) : List Bool := (List.range 5).map fun k => v.testBit (4 - k)

/-- A group of bits read as a number, the first bit most significant (R111, R114). -/
def groupValue (bits : List Bool) : Nat := bits.foldl (fun n b => 2 * n + b.toNat) 0

/-- The lower-case form of an upper-case letter; any other byte as it is (R116). -/
def lowerCase (c : Byte) : Byte := if 0x41 ≤ c.toNat ∧ c.toNat ≤ 0x5A then c + 0x20 else c

/-- The error codes each command can end with (R182). -/
def endCodes : Instr → List (BitVec 4)
  | .b32enc => [0, 7, 8]
  | .b32dec _ => [0, 7, 8]
  | .hmac _ _ => [0, 2, 5, 6, 7, 8]
  | .dtrunc _ => [0, 3, 6, 7, 8]
  | .hotp _ _ => [0, 1, 2, 3, 5, 6, 7, 8]

end Sys2Proof.Machine
end

