-- ==== Sys2Proof/Certificates/Slice0/Obligations.lean ====
section
/-! DEFINITION. The statements for the provers. Every one is stated over all states or operands it names, in the order of
spec/: encoding, the sequencer's step, Base32, HMAC, truncation, the chain, the host port, errors, reset, invariants.
`schedule` (whose move is next), `response` (the port's answer) and `draws` (the free values used up) are the model's own
fields, log entries 1, 7 and 6: where a statement names them it says how the spec's rule shows in this model. -/

open Sys2Proof Sys2Proof.Machine

/-! ## Encoding -/

/-- R100, last paragraph: the listed words, one and more of every row, spell the commands listed beside them. -/
def Obligations.ListedWordsDecode : Prop :=
  decode 0x00000001 = .ok .b32enc ∧ decode 0x00000002 = .ok (.b32dec .obuf) ∧ decode 0x00001002 = .ok (.b32dec .kbuf) ∧
    decode 0x00000003 = .ok (.hmac (.known .sha1) .ibuf) ∧ decode 0x00001023 = .ok (.hmac (.known .sha512) .ctr) ∧
    decode 0x00000604 = .ok (.dtrunc 6) ∧ decode 0x00000A04 = .ok (.dtrunc 10) ∧
    decode 0x00000815 = .ok (.hotp (.known .sha256) 8) ∧ decode 0x00000A25 = .ok (.hotp (.known .sha512) 10)

/-- R91, R93, R94, R95: the decoder reads back every well-formed command from its word, every operand at every value its
field admits, the numbers that end in an error among them. -/
def Obligations.DecodeOfEncode : Prop := ∀ i : Instr, i.wellFormed = true → decode (encode i) = .ok i

/-- R90, R91, R99: a word has at most one reading, and the encoder gives the word back from it, no bit dropped. -/
def Obligations.EncodeOfDecode : Prop :=
  ∀ (w : Word) (i : Instr), decode w = .ok i → encode i = w ∧ i.wellFormed = true

/-- R100: a word is a command of a row exactly when it matches the row under the row's mask. -/
def Obligations.RowsMatchUnderMask : Prop :=
  ∀ w : Word,
    (w &&& 0xFFFFFFFF = 0x00000001 ↔ decode w = .ok .b32enc) ∧
      (w &&& 0xFFFFEFFF = 0x00000002 ↔ ∃ dest, decode w = .ok (.b32dec dest)) ∧
      (w &&& 0xFFFFEF0F = 0x00000003 ↔ ∃ alg src, decode w = .ok (.hmac alg src)) ∧
      (w &&& 0xFFFFF0FF = 0x00000004 ↔ ∃ digits, decode w = .ok (.dtrunc digits)) ∧
      (w &&& 0xFFFFF00F = 0x00000005 ↔ ∃ alg digits, decode w = .ok (.hotp alg digits))

/-- R99: no word with a bit of 31:13 set spells a command; of the 8192 others 307 do, and 29 of those pass the checks of
their fields. -/
def Obligations.WordCounts : Prop :=
  (∀ w : Word, 8192 ≤ w.toNat → ∃ e, decode w = .error e) ∧
    (List.range 8192).countP (fun n => (decode (BitVec.ofNat 32 n)).isOk) = 307 ∧
    (List.range 8192).countP
        (fun n => match decode (BitVec.ofNat 32 n) with | .ok i => i.legal | .error _ => false) = 29

/-! ## The sequencer's step -/

/-- R96: in `EXEC` the sequencer's step is `exec` of the command its latched word spells, with nothing around it; a word that
spells none completes with `IllegalCommand`; in `WAIT` (R137, R167) the step is `exec` of the waiting command, read as log
entry 13 says. With no move lined up the sequencer moves (log entry 1). -/
def Obligations.StepRunsTheLatchedCommand : Prop :=
  (∀ (s : State) (i : Instr), s.schedule = [] → s.phase = .exec → decode s.cmdw = .ok i → step s = exec i s) ∧
    (∀ (s : State) (i : Instr) (rest : List Move), s.schedule = .sequencer :: rest → s.phase = .exec →
      decode s.cmdw = .ok i → step s = exec i { s with schedule := rest }) ∧
    (∀ (s : State) (e : DecodeError), s.schedule = [] → s.phase = .exec → decode s.cmdw = .error e →
      step s = .next { s with err := 7, done := true, phase := .idle }) ∧
    (∀ (s : State) (i : Instr), s.schedule = [] → s.phase = .wait → waitingInstr s.cmdw = some i → step s = exec i s)

/-- R97: the sequencer's first step makes exactly the checks of R97, in its order. If one fails the step completes with its
code and changes nothing else at all; if none fails the word spells a legal command, whose body then sends a request or
completes with one of the codes a body may raise. -/
def Obligations.PreCheckAsWritten : Prop :=
  ∀ s : State, s.phase = .exec → s.schedule = [] →
    (preCheckR97 s.cmdw s.ilen s.klen s.dlen ≠ .none →
      step s = .next { s with
        err := (preCheckR97 s.cmdw s.ilen s.klen s.dlen).code, done := true, phase := .idle }) ∧
    (preCheckR97 s.cmdw s.ilen s.klen s.dlen = .none →
      ∃ i t, decode s.cmdw = .ok i ∧ i.legal = true ∧ step s = .next t ∧ exec i s = .next t ∧
        (t.phase = .wait ∨ (t.phase = .idle ∧ t.done = true ∧ (t.err = 0 ∨ t.err = 1 ∨ t.err = 6))))

/-- R99, R63, R139: no state stops the machine: every step answers a next state. That a move of an agent that is not enabled
leaves the state as it is, is this model's choice (log entry 2). -/
def Obligations.EveryStepAnswersNext : Prop := ∀ s : State, ∃ t, step s = .next t

/-- R98: a command changes no data state outside its destinations, whatever it ends with. -/
def Obligations.OnlyDestinationsChange : Prop :=
  ∀ (i : Instr) (s t : State), exec i s = .next t →
    KeptByCommands s t ∧
      (match i with
        | .b32enc => t.kbuf = s.kbuf ∧ t.klen = s.klen ∧ t.dbuf = s.dbuf ∧ t.dlen = s.dlen ∧ t.value = s.value ∧
            t.code = s.code
        | .b32dec .obuf => t.kbuf = s.kbuf ∧ t.klen = s.klen ∧ t.dbuf = s.dbuf ∧ t.dlen = s.dlen ∧ t.value = s.value ∧
            t.code = s.code
        | .b32dec .kbuf => t.obuf = s.obuf ∧ t.olen = s.olen ∧ t.dbuf = s.dbuf ∧ t.dlen = s.dlen ∧ t.value = s.value ∧
            t.code = s.code
        | .hmac _ _ => t.obuf = s.obuf ∧ t.olen = s.olen ∧ t.kbuf = s.kbuf ∧ t.klen = s.klen ∧ t.value = s.value ∧
            t.code = s.code
        | .dtrunc _ => t.kbuf = s.kbuf ∧ t.klen = s.klen ∧ t.dbuf = s.dbuf ∧ t.dlen = s.dlen
        | .hotp _ _ => True)

/-- R26, R76: bytes at or beyond the length register do not reach a command: with any other IBUF that agrees below `ILEN`
(and, for `HMAC` and `DTRUNC`, any KBUF or DBUF that agrees below its length) it ends in the same state, those bytes apart.
A byte below the length that is unspecified in both takes the same draw in both runs: this model's choice, log entry 4. -/
def Obligations.BytesBeyondTheLengthUnread : Prop :=
  (∀ (i : Instr) (s t : State) (m : Memory), (∀ j < s.ilen.toNat, m.byteAt j = s.ibuf.byteAt j) → exec i s = .next t →
    exec i { s with ibuf := m } = .next { t with ibuf := m }) ∧
    (∀ (alg : AlgId) (src : MsgSrc) (s t : State) (m : Memory),
      (∀ j < s.klen.toNat, m.byteAt j = s.kbuf.byteAt j) → exec (.hmac alg src) s = .next t →
      exec (.hmac alg src) { s with kbuf := m } = .next { t with kbuf := m }) ∧
    (∀ (digits : Nat) (s t : State) (m : Memory), (∀ j < s.dlen.toNat, m.byteAt j = s.dbuf.byteAt j) →
      exec (.dtrunc digits) s = .next t → exec (.dtrunc digits) { s with dbuf := m } = .next { t with dbuf := m })

/-- R26, R76: what a command reads from a buffer is, byte for byte, what the buffer holds there. -/
def Obligations.ReadsTheDefinedBytes : Prop :=
  ∀ (s : State) (j : Nat) (b : Byte),
    (s.ibuf.byteAt j = some b → j < s.ilen.toNat → (inputBytes s)[j]? = some b) ∧
      (s.kbuf.byteAt j = some b → j < s.klen.toNat → (keyBytes s)[j]? = some b) ∧
      (s.dbuf.byteAt j = some b → j < s.dlen.toNat → (digestBytes s)[j]? = some b) ∧
      (inputBytes s).length = s.ilen.toNat ∧ (keyBytes s).length = s.klen.toNat ∧ (digestBytes s).length = s.dlen.toNat

/-! ## Base32 -/

/-- R110, R113: `charval` is the inverse of `sym`, takes lower case as upper case, and gives a value to 58 bytes. -/
def Obligations.CharvalInvertsSym : Prop :=
  (∀ v < 32, charval (sym v) = some v) ∧ (∀ c : Byte, charval (lowerCase c) = charval c) ∧
    (∀ (c : Byte) (v : Nat), charval c = some v → v < 32) ∧
    (List.range 256).countP (fun n => (charval (BitVec.ofNat 8 n)).isSome) = 58

/-- R111: `b32enc` in the words of the rule: the bits in a row, zero bits appended, groups of five from the front. -/
def Obligations.EncodeGroupsTheBits : Prop :=
  ∀ b : List Byte,
    let m := (8 * b.length + 4) / 5
    let row := b.flatMap byteBits ++ List.replicate (5 * m - 8 * b.length) false
    (b32enc b).length = m ∧ row.length = 5 * m ∧
      ∀ j < m, (b32enc b)[j]? = some (sym (groupValue ((row.drop (5 * j)).take 5)))

/-- R114: `b32dec` in the words of the rule: the bits of the values in a row, groups of eight from the front, the rest
discarded. -/
def Obligations.DecodeRegroupsTheBits : Prop :=
  ∀ t : List Byte,
    let vs := t.filterMap charval
    let m := 5 * vs.length / 8
    let row := vs.flatMap valueBits
    (b32dec t).length = m ∧ row.length = 5 * vs.length ∧
      ∀ i < m, (b32dec t)[i]? = some (BitVec.ofNat 8 (groupValue ((row.drop (8 * i)).take 8)))

/-- R116: decoding an encoded byte sequence gives it back, in lower case too, and with skipped bytes inserted anywhere; the
converse does not hold. -/
def Obligations.Base32RoundTrip : Prop :=
  (∀ b : List Byte, b32dec (b32enc b) = b) ∧ (∀ b : List Byte, b32dec ((b32enc b).map lowerCase) = b) ∧
    (∀ b t : List Byte, t.filter (fun c => (charval c).isSome) = b32enc b → b32dec t = b) ∧
    (∃ t : List Byte, b32enc (b32dec t) ≠ t)

/-- R117: the lengths of both functions, and that they fit their destinations. -/
def Obligations.Base32Lengths : Prop :=
  (∀ b : List Byte, (b32enc b).length = (8 * b.length + 4) / 5 ∧ (b.length ≤ 256 → (b32enc b).length ≤ 410)) ∧
    (∀ t : List Byte, (b32dec t).length = 5 * (t.filterMap charval).length / 8 ∧
      (t.length ≤ 256 → (b32dec t).length ≤ 160))

/-- R112: `B32ENC` completes whenever `ILEN` is at most 256, with the encoded text in OBUF, its length in `OLEN`, OBUF's other
bytes unspecified, and nothing else changed. -/
def Obligations.B32encEncodes : Prop :=
  ∀ s : State, s.phase = .exec → s.ilen.toNat ≤ 256 →
    ∃ t, exec .b32enc s = .next t ∧ t.olen.toNat = (8 * s.ilen.toNat + 4) / 5 ∧
      (∀ j, t.obuf.byteAt j = (b32enc (inputBytes s))[j]?) ∧
      t = { s with obuf := t.obuf, olen := t.olen, draws := t.draws, err := 0, done := true, phase := .idle }

/-- R115: `B32DEC` completes whenever `ILEN` is at most 256, whatever the text, with the decoded bytes in the buffer `SEL`
names and their number in its length register, and nothing else changed. -/
def Obligations.B32decDecodes : Prop :=
  ∀ s : State, s.phase = .exec → s.ilen.toNat ≤ 256 →
    (∃ t, exec (.b32dec .obuf) s = .next t ∧ t.olen.toNat = (b32dec (inputBytes s)).length ∧
      (∀ j, t.obuf.byteAt j = (b32dec (inputBytes s))[j]?) ∧
      t = { s with obuf := t.obuf, olen := t.olen, draws := t.draws, err := 0, done := true, phase := .idle }) ∧
    (∃ t, exec (.b32dec .kbuf) s = .next t ∧ t.klen.toNat = (b32dec (inputBytes s)).length ∧
      (∀ j, t.kbuf.byteAt j = (b32dec (inputBytes s))[j]?) ∧
      t = { s with kbuf := t.kbuf, klen := t.klen, draws := t.draws, err := 0, done := true, phase := .idle })

/-! ## HMAC -/

/-- R134: `ctrbytes` gives the counter's eight bytes, the most significant first, and loses nothing of it. -/
def Obligations.CounterBytesBigEndian : Prop :=
  ∀ c : BitVec 64, (ctrBytes c).length = 8 ∧ (∀ j < 8, (ctrBytes c)[j]? = some (c.extractLsb' (8 * (7 - j)) 8)) ∧
    numeral 256 ((ctrBytes c).map BitVec.toNat) = c.toNat

/-- R135: `HMAC` with a known algorithm and lengths in range sends its request, with the message `SEL` names, clears its
destinations and waits; nothing else changes. -/
def Obligations.HmacSendsItsRequest : Prop :=
  ∀ (s : State) (a : Alg) (src : MsgSrc), s.phase = .exec → s.klen.toNat ≤ 256 →
    (src = .ibuf → s.ilen.toNat ≤ 256) →
    ∃ t key msg, exec (.hmac (.known a) src) s = .next t ∧ t.chan = .req ⟨a, key, msg⟩ ∧
      key.length = s.klen.toNat ∧ (∀ (j : Nat) (b : Byte), j < s.klen.toNat → s.kbuf.byteAt j = some b → key[j]? = some b) ∧
      (src = .ctr → msg = ctrBytes s.ctr) ∧
      (src = .ibuf → msg.length = s.ilen.toNat ∧
        ∀ (j : Nat) (b : Byte), j < s.ilen.toNat → s.ibuf.byteAt j = some b → msg[j]? = some b) ∧
      (∀ j, t.dbuf.byteAt j = none) ∧
      t = { s with dbuf := t.dbuf, dlen := 0, chan := t.chan, draws := t.draws, phase := .wait }

/-- R137: when the core has answered, `HMAC` completes: with the answer's bytes in DBUF and `DLEN` when they fit, else with the
code the rule names and DBUF and `DLEN` untouched; nothing else changes. -/
def Obligations.HmacTakesTheAnswer : Prop :=
  ∀ (s : State) (alg : AlgId) (src : MsgSrc), s.phase = .wait →
    (s.chan = .resp .unavailable →
      exec (.hmac alg src) s = .next { s with chan := .idle, err := 5, done := true, phase := .idle }) ∧
    (∀ (n : Fin 128) (d : Vector Byte 64), s.chan = .resp (.ok n d) → 64 < n.val →
      exec (.hmac alg src) s = .next { s with chan := .idle, err := 6, done := true, phase := .idle }) ∧
    (∀ (n : Fin 128) (d : Vector Byte 64), s.chan = .resp (.ok n d) → n.val ≤ 64 →
      ∃ t, exec (.hmac alg src) s = .next t ∧ t.dlen.toNat = n.val ∧
        (∀ j, t.dbuf.byteAt j = if j < n.val then d[j]? else none) ∧
        t = { s with dbuf := t.dbuf, dlen := t.dlen, chan := .idle, err := 0, done := true, phase := .idle })

/-- R132, R137: with a conforming answer that is not `unavailable`, `HMAC` leaves exactly `hmac(ALG, key, msg)` in DBUF. The
statement holds whatever function `hmac` is. -/
def Obligations.ConformingAnswerGivesTheDigest : Prop :=
  ∀ (s : State) (a : Alg) (src : MsgSrc) (r : Request) (x : Answer), s.phase = .wait → s.chan = .resp x → r.alg = a →
    Conforming r x → x ≠ .unavailable →
    ∃ t, exec (.hmac (.known a) src) s = .next t ∧ t.err = 0 ∧ t.phase = .idle ∧ t.dlen.toNat = outlen a ∧
      ∀ j, t.dbuf.byteAt j = (hmac a r.key r.msg)[j]?

/-- R136: the core's step replaces the outstanding request by the one answer it chose, and touches nothing else. -/
def Obligations.CoreAnswersTheRequest : Prop :=
  ∀ (s : State) (r : Request) (x : Answer) (rest : List Move), s.schedule = .core x :: rest → s.chan = .req r →
    step s = .next { s with chan := .resp x, schedule := rest }

/-- R139, R228: while a request is outstanding only the core's answer or a reset moves the block: after any other step it
still waits on the same request, busy. -/
def Obligations.OnlyAnswerOrResetEndsTheWait : Prop :=
  ∀ (s t : State) (r : Request), s.phase = .wait → s.chan = .req r → step s = .next t →
    (∃ x rest, s.schedule = .core x :: rest) ∨ (∃ rest, s.schedule = .reset :: rest) ∨
      (t.phase = .wait ∧ t.chan = .req r ∧ t.cmdw = s.cmdw ∧ t.busy = true ∧ SameData s t)

/-- R139, R228, with the premise that the core answers next: a command waiting on its request then completes with the
sequencer's next step, whatever the answer. -/
def Obligations.AnsweredCommandsComplete : Prop :=
  ∀ (s : State) (r : Request) (x : Answer), s.phase = .wait → waitable s.cmdw = true → s.chan = .req r →
    s.schedule = [.core x] →
    ∃ t u, step s = .next t ∧ step t = .next u ∧ u.phase = .idle ∧ u.done = true ∧ u.chan = .idle ∧ u.ovr = s.ovr

/-! ## Truncation -/

/-- R150, R154: on a digest of 20 bytes or more the offset is the low nibble of the last byte, the four bytes read lie inside
the digest, and the value is their big-endian number with the top bit cleared. -/
def Obligations.TruncationReadsInside : Prop :=
  ∀ (d : List Byte) (h : 20 ≤ d.length),
    dtOffset d = (d[d.length - 1]'(by omega)).toNat % 16 ∧ dtOffset d + 3 ≤ 18 ∧
      (∀ b0 b1 b2 b3 : Byte, d[dtOffset d]? = some b0 → d[dtOffset d + 1]? = some b1 → d[dtOffset d + 2]? = some b2 →
        d[dtOffset d + 3]? = some b3 →
        (dtValue d).toNat = b0.toNat % 128 * 2 ^ 24 + b1.toNat * 2 ^ 16 + b2.toNat * 2 ^ 8 + b3.toNat) ∧
      (dtValue d).toNat < 2 ^ 31

/-- R151: the reduction is the remainder by the power of ten; for ten digits it is the value itself. -/
def Obligations.CodeIsTheRemainder : Prop :=
  ∀ (v : Word) (digits : Nat), v.toNat < 2 ^ 31 → 6 ≤ digits → digits ≤ 10 →
    (dtCode v digits).toNat = v.toNat % 10 ^ digits ∧ (dtCode v digits).toNat < 10 ^ digits ∧
      (dtCode v digits).toNat < 2 ^ 31 ∧ (digits = 10 → dtCode v digits = v)

/-- R152: the rendering has exactly `digits` characters, each an ASCII digit, the one the rule's formula gives, and spells the
number. -/
def Obligations.RenderSpellsTheNumber : Prop :=
  ∀ c digits : Nat, c < 10 ^ digits →
    (render c digits).length = digits ∧
      (∀ j < digits, ∃ b, (render c digits)[j]? = some b ∧ b.toNat = 0x30 + c / 10 ^ (digits - 1 - j) % 10) ∧
      numeral 10 ((render c digits).map fun b => b.toNat - 0x30) = c

/-- R153: `DTRUNC` with a legal digit count on 20 to 64 bytes completes with the value, the code and its text, and changes
nothing else. -/
def Obligations.DtruncDerivesTheCode : Prop :=
  ∀ (s : State) (digits : Nat), s.phase = .exec → 6 ≤ digits → digits ≤ 10 → 20 ≤ s.dlen.toNat → s.dlen.toNat ≤ 64 →
    ∃ t, exec (.dtrunc digits) s = .next t ∧ t.value = dtValue (digestBytes s) ∧
      t.code.toNat = t.value.toNat % 10 ^ digits ∧ t.olen.toNat = digits ∧
      (∀ j, t.obuf.byteAt j = (render t.code.toNat digits)[j]?) ∧
      t = { s with value := t.value, code := t.code, obuf := t.obuf, olen := t.olen, draws := t.draws, err := 0,
                   done := true, phase := .idle }

/-- R153: `DTRUNC` on fewer than 20 bytes ends in `InternalInvariant` with its destinations empty. -/
def Obligations.DtruncRejectsShortDigests : Prop :=
  ∀ (s : State) (digits : Nat), s.phase = .exec → 6 ≤ digits → digits ≤ 10 → s.dlen.toNat < 20 →
    ∃ t, exec (.dtrunc digits) s = .next t ∧ (∀ j, t.obuf.byteAt j = none) ∧
      t = { s with value := 0, code := 0, obuf := t.obuf, olen := 0, err := 6, done := true, phase := .idle }

/-! ## The chain -/

/-- R166: `HOTP` on a secret that decodes to some byte leaves the key in KBUF, sends its request and waits, its other
destinations empty. -/
def Obligations.HotpSendsItsRequest : Prop :=
  ∀ (s : State) (a : Alg) (digits : Nat), s.phase = .exec → 6 ≤ digits → digits ≤ 10 → s.ilen.toNat ≤ 256 →
    b32dec (inputBytes s) ≠ [] →
    ∃ t, exec (.hotp (.known a) digits) s = .next t ∧
      t.chan = .req ⟨a, b32dec (inputBytes s), ctrBytes s.ctr⟩ ∧
      t.klen.toNat = (b32dec (inputBytes s)).length ∧ (∀ j, t.kbuf.byteAt j = (b32dec (inputBytes s))[j]?) ∧
      (∀ j, t.obuf.byteAt j = none) ∧ (∀ j, t.dbuf.byteAt j = none) ∧
      t = { s with kbuf := t.kbuf, klen := t.klen, dbuf := t.dbuf, dlen := 0, obuf := t.obuf, olen := 0, value := 0,
                   code := 0, chan := t.chan, draws := t.draws, phase := .wait }

/-- R166: `HOTP` on a secret that decodes to no byte ends in `InvalidSecret`, sends no request, and leaves every destination
empty. -/
def Obligations.HotpRejectsEmptySecrets : Prop :=
  ∀ (s : State) (a : Alg) (digits : Nat), s.phase = .exec → 6 ≤ digits → digits ≤ 10 → s.ilen.toNat ≤ 256 →
    b32dec (inputBytes s) = [] →
    ∃ t, exec (.hotp (.known a) digits) s = .next t ∧ (∀ j, t.kbuf.byteAt j = none) ∧ (∀ j, t.obuf.byteAt j = none) ∧
      (∀ j, t.dbuf.byteAt j = none) ∧
      t = { s with kbuf := t.kbuf, klen := 0, dbuf := t.dbuf, dlen := 0, obuf := t.obuf, olen := 0, value := 0,
                   code := 0, draws := t.draws, err := 1, done := true, phase := .idle }

/-- R167: when the core has answered, `HOTP` completes: with digest, value, code and text when 20 to 64 bytes came, else with
the code the rule names, the digest kept only when it was too short; nothing else changes. -/
def Obligations.HotpTakesTheAnswer : Prop :=
  ∀ (s : State) (alg : AlgId) (digits : Nat), s.phase = .wait → 6 ≤ digits → digits ≤ 10 →
    (s.chan = .resp .unavailable →
      exec (.hotp alg digits) s = .next { s with chan := .idle, err := 5, done := true, phase := .idle }) ∧
    (∀ (n : Fin 128) (d : Vector Byte 64), s.chan = .resp (.ok n d) → 64 < n.val →
      exec (.hotp alg digits) s = .next { s with chan := .idle, err := 6, done := true, phase := .idle }) ∧
    (∀ (n : Fin 128) (d : Vector Byte 64), s.chan = .resp (.ok n d) → n.val < 20 →
      ∃ t, exec (.hotp alg digits) s = .next t ∧ t.dlen.toNat = n.val ∧
        (∀ j, t.dbuf.byteAt j = if j < n.val then d[j]? else none) ∧
        t = { s with dbuf := t.dbuf, dlen := t.dlen, chan := .idle, err := 6, done := true, phase := .idle }) ∧
    (∀ (n : Fin 128) (d : Vector Byte 64), s.chan = .resp (.ok n d) → 20 ≤ n.val → n.val ≤ 64 →
      ∃ t, exec (.hotp alg digits) s = .next t ∧ t.dlen.toNat = n.val ∧
        (∀ j, t.dbuf.byteAt j = if j < n.val then d[j]? else none) ∧ t.value = dtValue (d.toList.take n.val) ∧
        t.code.toNat = t.value.toNat % 10 ^ digits ∧ t.olen.toNat = digits ∧
        (∀ j, t.obuf.byteAt j = (render t.code.toNat digits)[j]?) ∧
        t = { s with dbuf := t.dbuf, dlen := t.dlen, value := t.value, code := t.code, obuf := t.obuf, olen := t.olen,
                     chan := .idle, err := 0, done := true, phase := .idle })

/-- R165: with a conforming answer, `HOTP` leaves the text `hotp(text, CTR, ALG, DIGITS)` in OBUF, and the counter as it was.
The statement holds whatever function `hmac` is. -/
def Obligations.HotpComputesTheCode : Prop :=
  ∀ (s : State) (a : Alg) (digits : Nat), s.phase = .exec → 6 ≤ digits → digits ≤ 10 → s.ilen.toNat ≤ 256 →
    b32dec (inputBytes s) ≠ [] →
    ∃ t r, exec (.hotp (.known a) digits) s = .next t ∧ t.chan = .req r ∧
      ∀ x : Answer, Conforming r x → x ≠ .unavailable →
        ∃ u, exec (.hotp (.known a) digits) (coreRespond x t) = .next u ∧ u.err = 0 ∧ u.done = true ∧ u.ctr = s.ctr ∧
          u.olen.toNat = digits ∧ ∀ j, u.obuf.byteAt j = (hotp (inputBytes s) s.ctr a digits)[j]?

/-- R168: from the same state and with the same answer, a `HOTP` that completes without error leaves the same key, digest,
value, code and text as `B32DEC KBUF`; `HMAC alg, CTR`; `DTRUNC digits`, each of which then completes without error too, and
the same request is sent. -/
def Obligations.HotpEqualsTheChain : Prop :=
  ∀ (s h1 h2 c1 c2 c3 c4 : State) (a : Alg) (digits : Nat) (x : Answer), s.phase = .idle → digitsLegal digits = true →
    exec (.hotp (.known a) digits) (issue (encode (.hotp (.known a) digits)) s) = .next h1 → h1.phase = .wait →
    exec (.hotp (.known a) digits) (coreRespond x h1) = .next h2 → h2.err = 0 →
    exec (.b32dec .kbuf) (issue (encode (.b32dec .kbuf)) s) = .next c1 →
    exec (.hmac (.known a) .ctr) (issue (encode (.hmac (.known a) .ctr)) c1) = .next c2 →
    exec (.hmac (.known a) .ctr) (coreRespond x c2) = .next c3 →
    exec (.dtrunc digits) (issue (encode (.dtrunc digits)) c3) = .next c4 →
    c1.err = 0 ∧ c3.err = 0 ∧ c4.err = 0 ∧ c2.chan = h1.chan ∧ c4.kbuf = h2.kbuf ∧ c4.klen = h2.klen ∧
      c4.dbuf = h2.dbuf ∧ c4.dlen = h2.dlen ∧ c4.value = h2.value ∧ c4.code = h2.code ∧ c4.obuf = h2.obuf ∧
      c4.olen = h2.olen

/-- R139: a command that waits and has no answer yet moves nothing: the sequencer's turn leaves the whole state (that such a
turn is taken at all is this model's choice, log entry 2). -/
def Obligations.WaitingCommandsHold : Prop :=
  ∀ (s : State) (r : Request) (alg : AlgId) (src : MsgSrc) (digits : Nat), s.phase = .wait → s.chan = .req r →
    exec (.hmac alg src) s = .next s ∧ exec (.hotp alg digits) s = .next s

/-! ## The host port -/

/-- R63: a misaligned or unmapped access, or a write to a read-only word, gets `HostFault` in any phase and changes no state,
and no other access gets it. -/
def Obligations.BadAccessesFault : Prop :=
  ∀ (s : State) (a : Addr) (v : Word) (rest : List Move),
    (s.schedule = .read a :: rest →
      (faultsR63 .read a = true → step s = .next { s with schedule := rest, response := some .hostFault }) ∧
      (faultsR63 .read a = false → ∃ t w, step s = .next t ∧ t.response = some (.data w))) ∧
    (s.schedule = .write a v :: rest →
      (faultsR63 .write a = true → step s = .next { s with schedule := rest, response := some .hostFault }) ∧
      (faultsR63 .write a = false → ∃ t, step s = .next t ∧ t.response = some .ok))

/-- R68: issue latches the word whatever it is, clears `DONE` and `ERR`, starts the command, and changes nothing else; `irq`
falls; a word that spells no command is found when the sequencer runs and ends in `IllegalCommand`. -/
def Obligations.CmdWriteIssues : Prop :=
  ∀ (s : State) (v : Word) (rest : List Move), s.phase = .idle → s.schedule = .write 0x000 v :: rest →
    ∃ t, step s = .next t ∧ t.irq = false ∧ t.busy = true ∧
      t = { s with cmdw := v, done := false, err := 0, phase := .exec, schedule := rest, response := some .ok } ∧
      (rest = [] → ∀ e, decode v = .error e → step t = .next { t with err := 7, done := true, phase := .idle })

/-- R69: acknowledge clears `DONE` by bit 1 and `OVR` by bit 2 of the word and changes nothing else, `ERR` kept. -/
def Obligations.StatusWriteAcknowledges : Prop :=
  ∀ (s : State) (v : Word) (rest : List Move), s.phase = .idle → s.schedule = .write 0x004 v :: rest →
    step s = .next { s with
      done := if v.getLsbD 1 then false else s.done, ovr := if v.getLsbD 2 then false else s.ovr, schedule := rest,
      response := some .ok }

/-- R70: a write to a mapped, writable word while busy is dropped: it answers `ok`, sets `OVR`, and changes nothing else. -/
def Obligations.BusyWritesAreDropped : Prop :=
  ∀ (s : State) (a : Addr) (v : Word) (rest : List Move), s.phase ≠ .idle → s.schedule = .write a v :: rest →
    faultsR63 .write a = false →
    step s = .next { s with ovr := true, schedule := rest, response := some .ok }

/-- R67: a write to each writable word but `CMD` and `STATUS` while idle, with all it changes; a buffer's word sets its four
bytes, lane `k` to index `4w + k`, and no other. -/
def Obligations.IdleWritesSetTheWord : Prop :=
  ∀ (s : State) (a : Addr) (v : Word) (rest : List Move), s.phase = .idle → s.schedule = .write a v :: rest →
    ∀ u : State, u = { s with schedule := rest, response := some .ok } →
    (a = 0x008 → step s = .next { u with ie := v.getLsbD 0 }) ∧ (a = 0x010 → step s = .next { u with ilen := v }) ∧
      (a = 0x018 → step s = .next { u with klen := v }) ∧ (a = 0x01C → step s = .next { u with dlen := v }) ∧
      (a = 0x020 → ∃ c, step s = .next { u with ctr := c } ∧ c.extractLsb' 0 32 = v ∧
        c.extractLsb' 32 32 = s.ctr.extractLsb' 32 32) ∧
      (a = 0x024 → ∃ c, step s = .next { u with ctr := c } ∧ c.extractLsb' 32 32 = v ∧
        c.extractLsb' 0 32 = s.ctr.extractLsb' 0 32) ∧
      (∀ w < 64, a.toNat = 0x100 + 4 * w → ∃ m, step s = .next { u with ibuf := m } ∧
        ∀ j, m.byteAt j = if j / 4 = w then some (v.extractLsb' (8 * (j % 4)) 8) else s.ibuf.byteAt j) ∧
      (∀ w < 64, a.toNat = 0x400 + 4 * w → ∃ m, step s = .next { u with kbuf := m } ∧
        ∀ j, m.byteAt j = if j / 4 = w then some (v.extractLsb' (8 * (j % 4)) 8) else s.kbuf.byteAt j) ∧
      (∀ w < 16, a.toNat = 0x500 + 4 * w → ∃ m, step s = .next { u with dbuf := m } ∧
        ∀ j, m.byteAt j = if j / 4 = w then some (v.extractLsb' (8 * (j % 4)) 8) else s.dbuf.byteAt j)

/-- R66, R64: a read while idle returns the register, or the buffer's word with byte `4w + k` on lane `k` wherever that byte
is specified, and has no side effect on the block. -/
def Obligations.IdleReadsReturnTheWord : Prop :=
  ∀ (s : State) (a : Addr) (rest : List Move), s.phase = .idle → s.schedule = .read a :: rest →
    faultsR63 .read a = false →
    ∃ t x, step s = .next t ∧ t = { s with schedule := rest, response := some (.data x), draws := t.draws } ∧
      (a = 0x000 → x = s.cmdw) ∧
      (a = 0x004 → x.getLsbD 0 = false ∧ x.getLsbD 1 = s.done ∧ x.getLsbD 2 = s.ovr ∧ x.getLsbD 3 = false ∧
        x.extractLsb' 4 4 = s.err ∧ x.extractLsb' 8 24 = 0) ∧
      (a = 0x008 → x.getLsbD 0 = s.ie ∧ x.extractLsb' 1 31 = 0) ∧
      (a = 0x010 → x = s.ilen) ∧ (a = 0x014 → x = s.olen) ∧ (a = 0x018 → x = s.klen) ∧ (a = 0x01C → x = s.dlen) ∧
      (a = 0x020 → x = s.ctr.extractLsb' 0 32) ∧ (a = 0x024 → x = s.ctr.extractLsb' 32 32) ∧
      (a = 0x028 → x = s.value) ∧ (a = 0x02C → x = s.code) ∧
      (∀ w k b, k < 4 → a.toNat = 0x100 + 4 * w → w < 64 → s.ibuf.byteAt (4 * w + k) = some b →
        x.extractLsb' (8 * k) 8 = b) ∧
      (∀ w k b, k < 4 → a.toNat = 0x200 + 4 * w → w < 128 → s.obuf.byteAt (4 * w + k) = some b →
        x.extractLsb' (8 * k) 8 = b) ∧
      (∀ w k b, k < 4 → a.toNat = 0x400 + 4 * w → w < 64 → s.kbuf.byteAt (4 * w + k) = some b →
        x.extractLsb' (8 * k) 8 = b) ∧
      (∀ w k b, k < 4 → a.toNat = 0x500 + 4 * w → w < 16 → s.dbuf.byteAt (4 * w + k) = some b →
        x.extractLsb' (8 * k) 8 = b)

/-- R71: a read while busy: `STATUS` shows `BUSY` and `OVR` only; any other mapped word answers `ok` with some word; neither
has a side effect on the block. -/
def Obligations.BusyReadsShowStatusOnly : Prop :=
  ∀ (s : State) (a : Addr) (rest : List Move), s.phase ≠ .idle → s.schedule = .read a :: rest →
    faultsR63 .read a = false →
    ∃ t x, step s = .next t ∧ t = { s with schedule := rest, response := some (.data x), draws := t.draws } ∧
      (a = 0x004 → x.getLsbD 0 = true ∧ x.getLsbD 1 = false ∧ x.getLsbD 2 = s.ovr ∧ x.extractLsb' 3 29 = 0)

/-- R75: every write but one to `CMD` is idempotent, idle or busy. The premise is the canonical form of the buffers, which
`StepKeepsTheBuffersWellFormed` and `ResetMeetsTheInvariants` give. -/
def Obligations.WritesAreIdempotent : Prop :=
  ∀ (s : State) (a : Addr) (v : Word), BuffersWf s → a ≠ 0x000 → hostWrite a v (hostWrite a v s) = hostWrite a v s

/-- R102, R64, R67: the host script `PUT IBUF, bs`, run while idle, puts every byte of `bs` at its index, a byte beyond the
last word written stays as it was, and nothing but IBUF changes. -/
def Obligations.PutFillsTheBuffer : Prop :=
  ∀ (s : State) (bs : List Byte) (rest : List Move), s.phase = .idle → bs.length ≤ 256 →
    s.schedule = scriptPut .ibuf bs ++ rest →
    ∃ t, Sys2Proof.core.run ((bs.length + 3) / 4) s = .next t ∧ (∀ j < bs.length, t.ibuf.byteAt j = bs[j]?) ∧
      (∀ j, 4 * ((bs.length + 3) / 4) ≤ j → t.ibuf.byteAt j = s.ibuf.byteAt j) ∧
      t = { s with ibuf := t.ibuf, schedule := rest, response := t.response }

/-! ## Errors, flags, phases -/

/-- R182: the codes each command can end with; with a conforming answer `HMAC` and `HOTP` never end with code 6. -/
def Obligations.CommandsEndWithTheirCodes : Prop :=
  (∀ (i : Instr) (s t : State), s.phase ≠ .idle → exec i s = .next t → t.phase = .idle → t.err ∈ endCodes i) ∧
    (∀ (s t : State) (a : Alg) (src : MsgSrc) (digits : Nat) (r : Request) (x : Answer), s.phase = .wait →
      s.chan = .resp x → r.alg = a → Conforming r x →
      (exec (.hmac (.known a) src) s = .next t ∨ exec (.hotp (.known a) digits) s = .next t) → t.err = 0 ∨ t.err = 5)

/-- R191: an error raised by the pre-check leaves every data register and buffer as at issue; an error raised later by
`DTRUNC` or `HOTP`, from a state its own issue and first step can leave, ends with no result in `VALUE`, `CODE`, `OLEN`. -/
def Obligations.ErrorsLeaveNoResult : Prop :=
  (∀ (i : Instr) (s t : State), s.phase = .exec → exec i s = .next t → t.phase = .idle →
    t.err = 2 ∨ t.err = 3 ∨ t.err = 8 → SameData s t) ∧
    (∀ (digits : Nat) (s t : State), s.phase = .exec → exec (.dtrunc digits) s = .next t → t.err = 6 → t.phase = .idle →
      t.value = 0 ∧ t.code = 0 ∧ t.olen = 0 ∧ t.dlen = s.dlen ∧ t.dbuf = s.dbuf) ∧
    (∀ (alg : AlgId) (digits : Nat) (s t : State) (x : Answer) (u : State), s.phase = .exec →
      exec (.hotp alg digits) s = .next t → t.phase = .wait → exec (.hotp alg digits) (coreRespond x t) = .next u →
      u.phase = .idle → u.err ≠ 0 →
      (u.err = 5 ∨ u.err = 6) ∧ u.value = 0 ∧ u.code = 0 ∧ u.olen = 0 ∧ u.klen = t.klen ∧ u.kbuf = t.kbuf)

/-- R227, R191: after an `HMAC` that the core left without a digest, a following `DTRUNC` rejects: it ends in
`InternalInvariant` and truncates no old digest. -/
def Obligations.NoOldDigestIsTruncated : Prop :=
  ∀ (s t u v : State) (alg : AlgId) (src : MsgSrc) (digits : Nat) (x : Answer), s.phase = .exec →
    exec (.hmac alg src) s = .next t → t.phase = .wait → exec (.hmac alg src) (coreRespond x t) = .next u → u.err ≠ 0 →
    digitsLegal digits = true → exec (.dtrunc digits) (issue (encode (.dtrunc digits)) u) = .next v →
    (u.err = 5 ∨ u.err = 6) ∧ v.err = 6 ∧ v.done = true ∧ v.code = 0 ∧ v.value = 0 ∧ v.olen = 0

/-- R22: the transitions of the phase and no others. -/
def Obligations.PhaseTransitions : Prop :=
  ∀ s t : State, step s = .next t → t.phase ≠ s.phase →
    (s.phase = .idle ∧ t.phase = .exec ∧ ∃ v rest, s.schedule = .write 0x000 v :: rest) ∨
      (s.phase = .exec ∧ t.phase = .idle ∧ t.done = true) ∨
      (s.phase = .exec ∧ t.phase = .wait ∧ (opField s.cmdw = 3 ∨ opField s.cmdw = 5) ∧ ∃ r, t.chan = .req r) ∨
      (s.phase = .wait ∧ t.phase = .idle ∧ t.done = true ∧ ∃ x, s.chan = .resp x) ∨
      (t.phase = .idle ∧ ∃ rest, s.schedule = .reset :: rest)

/-- R24, R190, R29: `DONE` is set by a completion and nothing else, and `irq` is then `IE`; `DONE` is cleared by issue,
acknowledge and reset only; `OVR` is set by a dropped write and cleared by acknowledge or reset only; `ERR` changes by a
completion, an issue or a reset only (R69: an acknowledge keeps it). -/
def Obligations.FlagsChangeOnlyAsListed : Prop :=
  ∀ s t : State, step s = .next t →
    (s.done = false → t.done = true → s.phase ≠ .idle ∧ t.phase = .idle ∧ t.irq = s.ie) ∧
      (s.done = true → t.done = false →
        (s.phase = .idle ∧ ∃ v rest, s.schedule = .write 0x000 v :: rest) ∨
          (s.phase = .idle ∧ ∃ v rest, s.schedule = .write 0x004 v :: rest ∧ v.getLsbD 1 = true) ∨
          (∃ rest, s.schedule = .reset :: rest)) ∧
      (s.ovr = false → t.ovr = true → s.phase ≠ .idle ∧ ∃ a v rest, s.schedule = .write a v :: rest) ∧
      (s.ovr = true → t.ovr = false →
        (s.phase = .idle ∧ ∃ v rest, s.schedule = .write 0x004 v :: rest ∧ v.getLsbD 2 = true) ∨
          (∃ rest, s.schedule = .reset :: rest)) ∧
      (t.err ≠ s.err →
        (s.phase ≠ .idle ∧ t.phase = .idle ∧ t.done = true) ∨
          (s.phase = .idle ∧ ∃ v rest, s.schedule = .write 0x000 v :: rest) ∨ (∃ rest, s.schedule = .reset :: rest))

/-- R156, R197: the block never counts: `CTR` changes by a host write of one of its halves while idle, or by reset, and by no
other step. -/
def Obligations.CounterIsTheHosts : Prop :=
  ∀ s t : State, step s = .next t → t.ctr ≠ s.ctr →
    (s.phase = .idle ∧ ∃ v rest, s.schedule = .write 0x020 v :: rest ∨ s.schedule = .write 0x024 v :: rest) ∨
      (∃ rest, s.schedule = .reset :: rest)

/-! ## Reset and invariants -/

/-- R30: after the reset input, in whatever state it came, every register and flag has its reset value, the channel is idle,
every buffer byte is unspecified, `BUSY` and `irq` are 0, and no answer of the core can be delivered (its step finds no
request, log entry 2); and the machine's own state after reset is such a state. -/
def Obligations.ResetGivesTheResetState : Prop :=
  ∀ (s : State) (rest : List Move), s.schedule = .reset :: rest →
    ∃ t, step s = .next t ∧
      ∀ u : State, u = t ∨ u = State.reset →
        u.phase = .idle ∧ u.busy = false ∧ u.irq = false ∧ u.cmdw = 0 ∧ u.done = false ∧ u.ovr = false ∧ u.err = 0 ∧
          u.ie = false ∧ u.ilen = 0 ∧ u.olen = 0 ∧ u.klen = 0 ∧ u.dlen = 0 ∧ u.ctr = 0 ∧ u.value = 0 ∧ u.code = 0 ∧
          (∀ j, u.ibuf.byteAt j = none ∧ u.obuf.byteAt j = none ∧ u.kbuf.byteAt j = none ∧ u.dbuf.byteAt j = none) ∧
          u.chan = .idle ∧ ∀ x : Answer, coreRespond x u = u

/-- R223: a command issued straight after reset: `B32ENC` and `B32DEC` end with empty results, `DTRUNC` in
`InternalInvariant`, `HOTP` in `InvalidSecret`, `HMAC` sends an empty key. -/
def Obligations.CommandsStraightAfterReset : Prop :=
  ∀ (s : State) (rest : List Move) (i : Instr), s = { State.reset with schedule := .write 0x000 (encode i) :: rest } →
    i.legal = true →
    ∃ t, step s = .next t ∧ ∃ u, exec i t = .next u ∧
      (match i with
        | .b32enc => u.err = 0 ∧ u.done = true ∧ u.olen = 0
        | .b32dec _ => u.err = 0 ∧ u.done = true ∧ u.olen = 0 ∧ u.klen = 0
        | .hmac alg src => ∃ a, alg = .known a ∧ u.phase = .wait ∧
            u.chan = .req ⟨a, [], if src = .ibuf then [] else [0, 0, 0, 0, 0, 0, 0, 0]⟩
        | .dtrunc _ => u.err = 6 ∧ u.done = true
        | .hotp _ _ => u.err = 1 ∧ u.done = true ∧ u.chan = .idle)

/-- The invariants hold of the state after reset (R30, R31). -/
def Obligations.ResetMeetsTheInvariants : Prop := StateInv State.reset ∧ BuffersWf State.reset

/-- R31: every step of every agent keeps the invariants of R31. -/
def Obligations.StepKeepsTheInvariants : Prop := ∀ s t : State, StateInv s → step s = .next t → StateInv t

/-- R26: every step of every agent keeps every buffer in canonical form within its capacity: no command and no host write
reaches a byte the spec says does not exist. -/
def Obligations.StepKeepsTheBuffersWellFormed : Prop := ∀ s t : State, BuffersWf s → step s = .next t → BuffersWf t
end

