-- ==== Sys2Proof/Laws/Memory.lean ====
section
/-! SUPPORT. The laws of buffers: a read after a write, that a write leaves every other byte alone, and that every
operation keeps the canonical form. -/

namespace Sys2Proof.Machine

@[simp] theorem byteAt_nil (i : Nat) : Memory.byteAt [] i = none := rfl

theorem byteAt_cons (a i : Nat) (b : Byte) (m : Memory) :
    Memory.byteAt ((a, b) :: m) i = if a = i then some b else m.byteAt i := rfl

/-- A buffer whose indices all lie at `lo` or above defines no byte below `lo`. -/
theorem byteAt_of_rising {cap lo : Nat} {m : Memory} (h : m.rising cap lo = true) {i : Nat} (hi : i < lo) :
    m.byteAt i = none := by
  induction m generalizing lo with
  | nil => rfl
  | cons c m ih =>
    obtain ⟨a, b⟩ := c
    simp only [Memory.rising, Bool.and_eq_true, decide_eq_true_eq] at h
    rw [byteAt_cons, if_neg (by omega)]
    exact ih h.2 (by omega)

/-- Read after write: the byte written. -/
@[simp] theorem byteAt_setByte_same (m : Memory) (i : Nat) (b : Byte) : (m.setByte i b).byteAt i = some b := by
  induction m with
  | nil => simp [Memory.setByte, byteAt_cons]
  | cons c m ih =>
    obtain ⟨a, c⟩ := c
    unfold Memory.setByte
    split
    · simp [byteAt_cons]
    · split
      · simp [byteAt_cons]
      · rw [byteAt_cons, if_neg (by omega)]
        exact ih

/-- A write leaves every other byte alone. -/
theorem byteAt_setByte_other (m : Memory) {i j : Nat} (b : Byte) (h : j ≠ i) :
    (m.setByte i b).byteAt j = m.byteAt j := by
  induction m with
  | nil => simp [Memory.setByte, byteAt_cons, Ne.symm h]
  | cons c m ih =>
    obtain ⟨a, c⟩ := c
    unfold Memory.setByte
    split
    · rw [byteAt_cons, if_neg (Ne.symm h)]
    · split
      · next hia =>
        subst hia
        rw [byteAt_cons, byteAt_cons, if_neg (Ne.symm h), if_neg (Ne.symm h)]
      · rw [byteAt_cons, byteAt_cons, ih]

/-- Both laws of a byte write in one. -/
theorem byteAt_setByte (m : Memory) (i j : Nat) (b : Byte) :
    (m.setByte i b).byteAt j = if j = i then some b else m.byteAt j := by
  split
  · next h => subst h; exact byteAt_setByte_same m j b
  · next h => exact byteAt_setByte_other m b h

theorem byteAt_bytesFrom (bs : List Byte) (i j : Nat) :
    (Memory.bytesFrom i bs).byteAt (i + j) = bs[j]? := by
  induction bs generalizing i j with
  | nil => rfl
  | cons b bs ih =>
    cases j with
    | zero => simp [Memory.bytesFrom, byteAt_cons]
    | succ j =>
      rw [Memory.bytesFrom, byteAt_cons, if_neg (by omega), show i + (j + 1) = (i + 1) + j by omega, ih]
      rfl

/-- A buffer after a command wrote `bs`: the bytes of `bs` defined, every other byte unspecified (R26). -/
@[simp] theorem byteAt_ofBytes (bs : List Byte) (j : Nat) : (Memory.ofBytes bs).byteAt j = bs[j]? := by
  simpa [Memory.ofBytes] using byteAt_bytesFrom bs 0 j

@[simp] theorem readBytes_length (m : Memory) (n d : Nat) : (m.readBytes n d).length = n := by
  simp [Memory.readBytes]

/-- What a command wrote, a command reads back, whatever the free values are. -/
theorem readBytes_ofBytes (bs : List Byte) (d : Nat) : (Memory.ofBytes bs).readBytes bs.length d = bs := by
  apply List.ext_getElem?
  intro j
  by_cases h : j < bs.length
  · simp [Memory.readBytes, Memory.readByte, h]
  · simp [Memory.readBytes, Memory.readByte, h]

/-! ## The canonical form -/

@[simp] theorem wf_nil (cap : Nat) : Memory.wf cap [] = true := rfl

theorem rising_weaken {cap lo lo' : Nat} {m : Memory} (h : m.rising cap lo = true) (hl : lo' ≤ lo) :
    m.rising cap lo' = true := by
  cases m with
  | nil => rfl
  | cons c m =>
    obtain ⟨a, b⟩ := c
    simp only [Memory.rising, Bool.and_eq_true, decide_eq_true_eq] at h ⊢
    exact ⟨⟨by omega, h.1.2⟩, h.2⟩

theorem rising_setByte {cap lo i : Nat} {m : Memory} (b : Byte) (h : m.rising cap lo = true) (hl : lo ≤ i)
    (hi : i < cap) : (m.setByte i b).rising cap lo = true := by
  induction m generalizing lo with
  | nil => simp [Memory.setByte, Memory.rising, hl, hi]
  | cons c m ih =>
    obtain ⟨a, c⟩ := c
    simp only [Memory.rising, Bool.and_eq_true, decide_eq_true_eq] at h
    unfold Memory.setByte
    split
    · next hia =>
      simp only [Memory.rising, Bool.and_eq_true, decide_eq_true_eq]
      exact ⟨⟨hl, hi⟩, ⟨by omega, h.1.2⟩, h.2⟩
    · split
      · next hia =>
        subst hia
        simp only [Memory.rising, Bool.and_eq_true, decide_eq_true_eq]
        exact ⟨⟨hl, hi⟩, h.2⟩
      · simp only [Memory.rising, Bool.and_eq_true, decide_eq_true_eq]
        exact ⟨h.1, ih h.2 (by omega)⟩

/-- Writing a byte inside the buffer keeps the canonical form. -/
theorem wf_setByte {cap i : Nat} {m : Memory} (b : Byte) (h : m.wf cap = true) (hi : i < cap) :
    (m.setByte i b).wf cap = true :=
  rising_setByte b h (Nat.zero_le i) hi

theorem rising_bytesFrom {cap lo i : Nat} {bs : List Byte} (hl : lo ≤ i) (h : i + bs.length ≤ cap) :
    (Memory.bytesFrom i bs).rising cap lo = true := by
  induction bs generalizing i lo with
  | nil => rfl
  | cons b bs ih =>
    simp only [List.length_cons] at h
    simp only [Memory.bytesFrom, Memory.rising, Bool.and_eq_true, decide_eq_true_eq]
    exact ⟨⟨hl, by omega⟩, ih (Nat.le_refl _) (by omega)⟩

/-- A command's result that fits the buffer is in canonical form. -/
theorem wf_ofBytes {cap : Nat} {bs : List Byte} (h : bs.length ≤ cap) : (Memory.ofBytes bs).wf cap = true :=
  rising_bytesFrom (Nat.le_refl 0) (by omega)

/-- A word write inside the buffer keeps the canonical form. -/
theorem wf_writeBufferWord {cap w : Nat} {m : Memory} (v : Word) (h : m.wf cap = true) (hw : 4 * w + 3 < cap) :
    (writeBufferWord m w v).wf cap = true :=
  wf_setByte _ (wf_setByte _ (wf_setByte _ (wf_setByte _ h (by omega)) (by omega)) (by omega)) hw

/-- A word write, byte by byte (R64): lane `k` at index `4w + k`, every other byte as before. -/
theorem byteAt_writeBufferWord (m : Memory) (w j : Nat) (v : Word) :
    (writeBufferWord m w v).byteAt j =
      if 4 * w ≤ j ∧ j < 4 * w + 4 then some (lane v (j - 4 * w)) else m.byteAt j := by
  simp only [writeBufferWord, byteAt_setByte]
  split
  · next h => subst h; simp
  · split
    · next h => subst h; simp
    · split
      · next h => subst h; simp
      · split
        · next h => subst h; simp
        · rw [if_neg (by omega)]

end Sys2Proof.Machine
end

