-- ==== Sys2Proof/Laws/State.lean ====
section
/-! SUPPORT. What each named operation does to each field of State: one lemma per field per operation, true by unfolding
one record update, so that no later proof unfolds one. -/

namespace Sys2Proof.Machine

/-! ### spend -/

@[simp] theorem spend_phase (n : Nat) (s : State) : (spend n s).phase = s.phase := rfl
@[simp] theorem spend_cmdw (n : Nat) (s : State) : (spend n s).cmdw = s.cmdw := rfl
@[simp] theorem spend_done (n : Nat) (s : State) : (spend n s).done = s.done := rfl
@[simp] theorem spend_ovr (n : Nat) (s : State) : (spend n s).ovr = s.ovr := rfl
@[simp] theorem spend_err (n : Nat) (s : State) : (spend n s).err = s.err := rfl
@[simp] theorem spend_ie (n : Nat) (s : State) : (spend n s).ie = s.ie := rfl
@[simp] theorem spend_ilen (n : Nat) (s : State) : (spend n s).ilen = s.ilen := rfl
@[simp] theorem spend_olen (n : Nat) (s : State) : (spend n s).olen = s.olen := rfl
@[simp] theorem spend_klen (n : Nat) (s : State) : (spend n s).klen = s.klen := rfl
@[simp] theorem spend_dlen (n : Nat) (s : State) : (spend n s).dlen = s.dlen := rfl
@[simp] theorem spend_ctr (n : Nat) (s : State) : (spend n s).ctr = s.ctr := rfl
@[simp] theorem spend_value (n : Nat) (s : State) : (spend n s).value = s.value := rfl
@[simp] theorem spend_code (n : Nat) (s : State) : (spend n s).code = s.code := rfl
@[simp] theorem spend_ibuf (n : Nat) (s : State) : (spend n s).ibuf = s.ibuf := rfl
@[simp] theorem spend_obuf (n : Nat) (s : State) : (spend n s).obuf = s.obuf := rfl
@[simp] theorem spend_kbuf (n : Nat) (s : State) : (spend n s).kbuf = s.kbuf := rfl
@[simp] theorem spend_dbuf (n : Nat) (s : State) : (spend n s).dbuf = s.dbuf := rfl
@[simp] theorem spend_chan (n : Nat) (s : State) : (spend n s).chan = s.chan := rfl
@[simp] theorem spend_draws (n : Nat) (s : State) : (spend n s).draws = s.draws + n := rfl
@[simp] theorem spend_response (n : Nat) (s : State) : (spend n s).response = s.response := rfl
@[simp] theorem spend_schedule (n : Nat) (s : State) : (spend n s).schedule = s.schedule := rfl

/-! ### complete -/

@[simp] theorem complete_phase (e : ErrKind) (s : State) : (complete e s).phase = .idle := rfl
@[simp] theorem complete_cmdw (e : ErrKind) (s : State) : (complete e s).cmdw = s.cmdw := rfl
@[simp] theorem complete_done (e : ErrKind) (s : State) : (complete e s).done = true := rfl
@[simp] theorem complete_ovr (e : ErrKind) (s : State) : (complete e s).ovr = s.ovr := rfl
@[simp] theorem complete_err (e : ErrKind) (s : State) : (complete e s).err = e.code := rfl
@[simp] theorem complete_ie (e : ErrKind) (s : State) : (complete e s).ie = s.ie := rfl
@[simp] theorem complete_ilen (e : ErrKind) (s : State) : (complete e s).ilen = s.ilen := rfl
@[simp] theorem complete_olen (e : ErrKind) (s : State) : (complete e s).olen = s.olen := rfl
@[simp] theorem complete_klen (e : ErrKind) (s : State) : (complete e s).klen = s.klen := rfl
@[simp] theorem complete_dlen (e : ErrKind) (s : State) : (complete e s).dlen = s.dlen := rfl
@[simp] theorem complete_ctr (e : ErrKind) (s : State) : (complete e s).ctr = s.ctr := rfl
@[simp] theorem complete_value (e : ErrKind) (s : State) : (complete e s).value = s.value := rfl
@[simp] theorem complete_code (e : ErrKind) (s : State) : (complete e s).code = s.code := rfl
@[simp] theorem complete_ibuf (e : ErrKind) (s : State) : (complete e s).ibuf = s.ibuf := rfl
@[simp] theorem complete_obuf (e : ErrKind) (s : State) : (complete e s).obuf = s.obuf := rfl
@[simp] theorem complete_kbuf (e : ErrKind) (s : State) : (complete e s).kbuf = s.kbuf := rfl
@[simp] theorem complete_dbuf (e : ErrKind) (s : State) : (complete e s).dbuf = s.dbuf := rfl
@[simp] theorem complete_chan (e : ErrKind) (s : State) : (complete e s).chan = s.chan := rfl
@[simp] theorem complete_draws (e : ErrKind) (s : State) : (complete e s).draws = s.draws := rfl
@[simp] theorem complete_response (e : ErrKind) (s : State) : (complete e s).response = s.response := rfl
@[simp] theorem complete_schedule (e : ErrKind) (s : State) : (complete e s).schedule = s.schedule := rfl

/-! ### issue -/

@[simp] theorem issue_phase (v : Word) (s : State) : (issue v s).phase = .exec := rfl
@[simp] theorem issue_cmdw (v : Word) (s : State) : (issue v s).cmdw = v := rfl
@[simp] theorem issue_done (v : Word) (s : State) : (issue v s).done = false := rfl
@[simp] theorem issue_ovr (v : Word) (s : State) : (issue v s).ovr = s.ovr := rfl
@[simp] theorem issue_err (v : Word) (s : State) : (issue v s).err = 0 := rfl
@[simp] theorem issue_ie (v : Word) (s : State) : (issue v s).ie = s.ie := rfl
@[simp] theorem issue_ilen (v : Word) (s : State) : (issue v s).ilen = s.ilen := rfl
@[simp] theorem issue_olen (v : Word) (s : State) : (issue v s).olen = s.olen := rfl
@[simp] theorem issue_klen (v : Word) (s : State) : (issue v s).klen = s.klen := rfl
@[simp] theorem issue_dlen (v : Word) (s : State) : (issue v s).dlen = s.dlen := rfl
@[simp] theorem issue_ctr (v : Word) (s : State) : (issue v s).ctr = s.ctr := rfl
@[simp] theorem issue_value (v : Word) (s : State) : (issue v s).value = s.value := rfl
@[simp] theorem issue_code (v : Word) (s : State) : (issue v s).code = s.code := rfl
@[simp] theorem issue_ibuf (v : Word) (s : State) : (issue v s).ibuf = s.ibuf := rfl
@[simp] theorem issue_obuf (v : Word) (s : State) : (issue v s).obuf = s.obuf := rfl
@[simp] theorem issue_kbuf (v : Word) (s : State) : (issue v s).kbuf = s.kbuf := rfl
@[simp] theorem issue_dbuf (v : Word) (s : State) : (issue v s).dbuf = s.dbuf := rfl
@[simp] theorem issue_chan (v : Word) (s : State) : (issue v s).chan = s.chan := rfl
@[simp] theorem issue_draws (v : Word) (s : State) : (issue v s).draws = s.draws := rfl
@[simp] theorem issue_response (v : Word) (s : State) : (issue v s).response = s.response := rfl
@[simp] theorem issue_schedule (v : Word) (s : State) : (issue v s).schedule = s.schedule := rfl

/-! ### acknowledge -/

@[simp] theorem acknowledge_phase (v : Word) (s : State) : (acknowledge v s).phase = s.phase := rfl
@[simp] theorem acknowledge_cmdw (v : Word) (s : State) : (acknowledge v s).cmdw = s.cmdw := rfl
@[simp] theorem acknowledge_done (v : Word) (s : State) : (acknowledge v s).done = (s.done && !v.getLsbD 1) := rfl
@[simp] theorem acknowledge_ovr (v : Word) (s : State) : (acknowledge v s).ovr = (s.ovr && !v.getLsbD 2) := rfl
@[simp] theorem acknowledge_err (v : Word) (s : State) : (acknowledge v s).err = s.err := rfl
@[simp] theorem acknowledge_ie (v : Word) (s : State) : (acknowledge v s).ie = s.ie := rfl
@[simp] theorem acknowledge_ilen (v : Word) (s : State) : (acknowledge v s).ilen = s.ilen := rfl
@[simp] theorem acknowledge_olen (v : Word) (s : State) : (acknowledge v s).olen = s.olen := rfl
@[simp] theorem acknowledge_klen (v : Word) (s : State) : (acknowledge v s).klen = s.klen := rfl
@[simp] theorem acknowledge_dlen (v : Word) (s : State) : (acknowledge v s).dlen = s.dlen := rfl
@[simp] theorem acknowledge_ctr (v : Word) (s : State) : (acknowledge v s).ctr = s.ctr := rfl
@[simp] theorem acknowledge_value (v : Word) (s : State) : (acknowledge v s).value = s.value := rfl
@[simp] theorem acknowledge_code (v : Word) (s : State) : (acknowledge v s).code = s.code := rfl
@[simp] theorem acknowledge_ibuf (v : Word) (s : State) : (acknowledge v s).ibuf = s.ibuf := rfl
@[simp] theorem acknowledge_obuf (v : Word) (s : State) : (acknowledge v s).obuf = s.obuf := rfl
@[simp] theorem acknowledge_kbuf (v : Word) (s : State) : (acknowledge v s).kbuf = s.kbuf := rfl
@[simp] theorem acknowledge_dbuf (v : Word) (s : State) : (acknowledge v s).dbuf = s.dbuf := rfl
@[simp] theorem acknowledge_chan (v : Word) (s : State) : (acknowledge v s).chan = s.chan := rfl
@[simp] theorem acknowledge_draws (v : Word) (s : State) : (acknowledge v s).draws = s.draws := rfl
@[simp] theorem acknowledge_response (v : Word) (s : State) : (acknowledge v s).response = s.response := rfl
@[simp] theorem acknowledge_schedule (v : Word) (s : State) : (acknowledge v s).schedule = s.schedule := rfl

/-! ### writeObuf -/

@[simp] theorem writeObuf_phase (bs : List Byte) (s : State) : (writeObuf bs s).phase = s.phase := rfl
@[simp] theorem writeObuf_cmdw (bs : List Byte) (s : State) : (writeObuf bs s).cmdw = s.cmdw := rfl
@[simp] theorem writeObuf_done (bs : List Byte) (s : State) : (writeObuf bs s).done = s.done := rfl
@[simp] theorem writeObuf_ovr (bs : List Byte) (s : State) : (writeObuf bs s).ovr = s.ovr := rfl
@[simp] theorem writeObuf_err (bs : List Byte) (s : State) : (writeObuf bs s).err = s.err := rfl
@[simp] theorem writeObuf_ie (bs : List Byte) (s : State) : (writeObuf bs s).ie = s.ie := rfl
@[simp] theorem writeObuf_ilen (bs : List Byte) (s : State) : (writeObuf bs s).ilen = s.ilen := rfl
@[simp] theorem writeObuf_olen (bs : List Byte) (s : State) : (writeObuf bs s).olen = BitVec.ofNat 32 bs.length := rfl
@[simp] theorem writeObuf_klen (bs : List Byte) (s : State) : (writeObuf bs s).klen = s.klen := rfl
@[simp] theorem writeObuf_dlen (bs : List Byte) (s : State) : (writeObuf bs s).dlen = s.dlen := rfl
@[simp] theorem writeObuf_ctr (bs : List Byte) (s : State) : (writeObuf bs s).ctr = s.ctr := rfl
@[simp] theorem writeObuf_value (bs : List Byte) (s : State) : (writeObuf bs s).value = s.value := rfl
@[simp] theorem writeObuf_code (bs : List Byte) (s : State) : (writeObuf bs s).code = s.code := rfl
@[simp] theorem writeObuf_ibuf (bs : List Byte) (s : State) : (writeObuf bs s).ibuf = s.ibuf := rfl
@[simp] theorem writeObuf_obuf (bs : List Byte) (s : State) : (writeObuf bs s).obuf = Memory.ofBytes bs := rfl
@[simp] theorem writeObuf_kbuf (bs : List Byte) (s : State) : (writeObuf bs s).kbuf = s.kbuf := rfl
@[simp] theorem writeObuf_dbuf (bs : List Byte) (s : State) : (writeObuf bs s).dbuf = s.dbuf := rfl
@[simp] theorem writeObuf_chan (bs : List Byte) (s : State) : (writeObuf bs s).chan = s.chan := rfl
@[simp] theorem writeObuf_draws (bs : List Byte) (s : State) : (writeObuf bs s).draws = s.draws := rfl
@[simp] theorem writeObuf_response (bs : List Byte) (s : State) : (writeObuf bs s).response = s.response := rfl
@[simp] theorem writeObuf_schedule (bs : List Byte) (s : State) : (writeObuf bs s).schedule = s.schedule := rfl

/-! ### writeKbuf -/

@[simp] theorem writeKbuf_phase (bs : List Byte) (s : State) : (writeKbuf bs s).phase = s.phase := rfl
@[simp] theorem writeKbuf_cmdw (bs : List Byte) (s : State) : (writeKbuf bs s).cmdw = s.cmdw := rfl
@[simp] theorem writeKbuf_done (bs : List Byte) (s : State) : (writeKbuf bs s).done = s.done := rfl
@[simp] theorem writeKbuf_ovr (bs : List Byte) (s : State) : (writeKbuf bs s).ovr = s.ovr := rfl
@[simp] theorem writeKbuf_err (bs : List Byte) (s : State) : (writeKbuf bs s).err = s.err := rfl
@[simp] theorem writeKbuf_ie (bs : List Byte) (s : State) : (writeKbuf bs s).ie = s.ie := rfl
@[simp] theorem writeKbuf_ilen (bs : List Byte) (s : State) : (writeKbuf bs s).ilen = s.ilen := rfl
@[simp] theorem writeKbuf_olen (bs : List Byte) (s : State) : (writeKbuf bs s).olen = s.olen := rfl
@[simp] theorem writeKbuf_klen (bs : List Byte) (s : State) : (writeKbuf bs s).klen = BitVec.ofNat 32 bs.length := rfl
@[simp] theorem writeKbuf_dlen (bs : List Byte) (s : State) : (writeKbuf bs s).dlen = s.dlen := rfl
@[simp] theorem writeKbuf_ctr (bs : List Byte) (s : State) : (writeKbuf bs s).ctr = s.ctr := rfl
@[simp] theorem writeKbuf_value (bs : List Byte) (s : State) : (writeKbuf bs s).value = s.value := rfl
@[simp] theorem writeKbuf_code (bs : List Byte) (s : State) : (writeKbuf bs s).code = s.code := rfl
@[simp] theorem writeKbuf_ibuf (bs : List Byte) (s : State) : (writeKbuf bs s).ibuf = s.ibuf := rfl
@[simp] theorem writeKbuf_obuf (bs : List Byte) (s : State) : (writeKbuf bs s).obuf = s.obuf := rfl
@[simp] theorem writeKbuf_kbuf (bs : List Byte) (s : State) : (writeKbuf bs s).kbuf = Memory.ofBytes bs := rfl
@[simp] theorem writeKbuf_dbuf (bs : List Byte) (s : State) : (writeKbuf bs s).dbuf = s.dbuf := rfl
@[simp] theorem writeKbuf_chan (bs : List Byte) (s : State) : (writeKbuf bs s).chan = s.chan := rfl
@[simp] theorem writeKbuf_draws (bs : List Byte) (s : State) : (writeKbuf bs s).draws = s.draws := rfl
@[simp] theorem writeKbuf_response (bs : List Byte) (s : State) : (writeKbuf bs s).response = s.response := rfl
@[simp] theorem writeKbuf_schedule (bs : List Byte) (s : State) : (writeKbuf bs s).schedule = s.schedule := rfl

/-! ### writeDbuf -/

@[simp] theorem writeDbuf_phase (bs : List Byte) (s : State) : (writeDbuf bs s).phase = s.phase := rfl
@[simp] theorem writeDbuf_cmdw (bs : List Byte) (s : State) : (writeDbuf bs s).cmdw = s.cmdw := rfl
@[simp] theorem writeDbuf_done (bs : List Byte) (s : State) : (writeDbuf bs s).done = s.done := rfl
@[simp] theorem writeDbuf_ovr (bs : List Byte) (s : State) : (writeDbuf bs s).ovr = s.ovr := rfl
@[simp] theorem writeDbuf_err (bs : List Byte) (s : State) : (writeDbuf bs s).err = s.err := rfl
@[simp] theorem writeDbuf_ie (bs : List Byte) (s : State) : (writeDbuf bs s).ie = s.ie := rfl
@[simp] theorem writeDbuf_ilen (bs : List Byte) (s : State) : (writeDbuf bs s).ilen = s.ilen := rfl
@[simp] theorem writeDbuf_olen (bs : List Byte) (s : State) : (writeDbuf bs s).olen = s.olen := rfl
@[simp] theorem writeDbuf_klen (bs : List Byte) (s : State) : (writeDbuf bs s).klen = s.klen := rfl
@[simp] theorem writeDbuf_dlen (bs : List Byte) (s : State) : (writeDbuf bs s).dlen = BitVec.ofNat 32 bs.length := rfl
@[simp] theorem writeDbuf_ctr (bs : List Byte) (s : State) : (writeDbuf bs s).ctr = s.ctr := rfl
@[simp] theorem writeDbuf_value (bs : List Byte) (s : State) : (writeDbuf bs s).value = s.value := rfl
@[simp] theorem writeDbuf_code (bs : List Byte) (s : State) : (writeDbuf bs s).code = s.code := rfl
@[simp] theorem writeDbuf_ibuf (bs : List Byte) (s : State) : (writeDbuf bs s).ibuf = s.ibuf := rfl
@[simp] theorem writeDbuf_obuf (bs : List Byte) (s : State) : (writeDbuf bs s).obuf = s.obuf := rfl
@[simp] theorem writeDbuf_kbuf (bs : List Byte) (s : State) : (writeDbuf bs s).kbuf = s.kbuf := rfl
@[simp] theorem writeDbuf_dbuf (bs : List Byte) (s : State) : (writeDbuf bs s).dbuf = Memory.ofBytes bs := rfl
@[simp] theorem writeDbuf_chan (bs : List Byte) (s : State) : (writeDbuf bs s).chan = s.chan := rfl
@[simp] theorem writeDbuf_draws (bs : List Byte) (s : State) : (writeDbuf bs s).draws = s.draws := rfl
@[simp] theorem writeDbuf_response (bs : List Byte) (s : State) : (writeDbuf bs s).response = s.response := rfl
@[simp] theorem writeDbuf_schedule (bs : List Byte) (s : State) : (writeDbuf bs s).schedule = s.schedule := rfl

/-! ### writeCode -/

@[simp] theorem writeCode_phase (v c : Word) (s : State) : (writeCode v c s).phase = s.phase := rfl
@[simp] theorem writeCode_cmdw (v c : Word) (s : State) : (writeCode v c s).cmdw = s.cmdw := rfl
@[simp] theorem writeCode_done (v c : Word) (s : State) : (writeCode v c s).done = s.done := rfl
@[simp] theorem writeCode_ovr (v c : Word) (s : State) : (writeCode v c s).ovr = s.ovr := rfl
@[simp] theorem writeCode_err (v c : Word) (s : State) : (writeCode v c s).err = s.err := rfl
@[simp] theorem writeCode_ie (v c : Word) (s : State) : (writeCode v c s).ie = s.ie := rfl
@[simp] theorem writeCode_ilen (v c : Word) (s : State) : (writeCode v c s).ilen = s.ilen := rfl
@[simp] theorem writeCode_olen (v c : Word) (s : State) : (writeCode v c s).olen = s.olen := rfl
@[simp] theorem writeCode_klen (v c : Word) (s : State) : (writeCode v c s).klen = s.klen := rfl
@[simp] theorem writeCode_dlen (v c : Word) (s : State) : (writeCode v c s).dlen = s.dlen := rfl
@[simp] theorem writeCode_ctr (v c : Word) (s : State) : (writeCode v c s).ctr = s.ctr := rfl
@[simp] theorem writeCode_value (v c : Word) (s : State) : (writeCode v c s).value = v := rfl
@[simp] theorem writeCode_code (v c : Word) (s : State) : (writeCode v c s).code = c := rfl
@[simp] theorem writeCode_ibuf (v c : Word) (s : State) : (writeCode v c s).ibuf = s.ibuf := rfl
@[simp] theorem writeCode_obuf (v c : Word) (s : State) : (writeCode v c s).obuf = s.obuf := rfl
@[simp] theorem writeCode_kbuf (v c : Word) (s : State) : (writeCode v c s).kbuf = s.kbuf := rfl
@[simp] theorem writeCode_dbuf (v c : Word) (s : State) : (writeCode v c s).dbuf = s.dbuf := rfl
@[simp] theorem writeCode_chan (v c : Word) (s : State) : (writeCode v c s).chan = s.chan := rfl
@[simp] theorem writeCode_draws (v c : Word) (s : State) : (writeCode v c s).draws = s.draws := rfl
@[simp] theorem writeCode_response (v c : Word) (s : State) : (writeCode v c s).response = s.response := rfl
@[simp] theorem writeCode_schedule (v c : Word) (s : State) : (writeCode v c s).schedule = s.schedule := rfl

/-! ### clearObuf -/

@[simp] theorem clearObuf_phase (s : State) : (clearObuf s).phase = s.phase := rfl
@[simp] theorem clearObuf_cmdw (s : State) : (clearObuf s).cmdw = s.cmdw := rfl
@[simp] theorem clearObuf_done (s : State) : (clearObuf s).done = s.done := rfl
@[simp] theorem clearObuf_ovr (s : State) : (clearObuf s).ovr = s.ovr := rfl
@[simp] theorem clearObuf_err (s : State) : (clearObuf s).err = s.err := rfl
@[simp] theorem clearObuf_ie (s : State) : (clearObuf s).ie = s.ie := rfl
@[simp] theorem clearObuf_ilen (s : State) : (clearObuf s).ilen = s.ilen := rfl
@[simp] theorem clearObuf_olen (s : State) : (clearObuf s).olen = 0 := rfl
@[simp] theorem clearObuf_klen (s : State) : (clearObuf s).klen = s.klen := rfl
@[simp] theorem clearObuf_dlen (s : State) : (clearObuf s).dlen = s.dlen := rfl
@[simp] theorem clearObuf_ctr (s : State) : (clearObuf s).ctr = s.ctr := rfl
@[simp] theorem clearObuf_value (s : State) : (clearObuf s).value = s.value := rfl
@[simp] theorem clearObuf_code (s : State) : (clearObuf s).code = s.code := rfl
@[simp] theorem clearObuf_ibuf (s : State) : (clearObuf s).ibuf = s.ibuf := rfl
@[simp] theorem clearObuf_obuf (s : State) : (clearObuf s).obuf = [] := rfl
@[simp] theorem clearObuf_kbuf (s : State) : (clearObuf s).kbuf = s.kbuf := rfl
@[simp] theorem clearObuf_dbuf (s : State) : (clearObuf s).dbuf = s.dbuf := rfl
@[simp] theorem clearObuf_chan (s : State) : (clearObuf s).chan = s.chan := rfl
@[simp] theorem clearObuf_draws (s : State) : (clearObuf s).draws = s.draws := rfl
@[simp] theorem clearObuf_response (s : State) : (clearObuf s).response = s.response := rfl
@[simp] theorem clearObuf_schedule (s : State) : (clearObuf s).schedule = s.schedule := rfl

/-! ### clearKbuf -/

@[simp] theorem clearKbuf_phase (s : State) : (clearKbuf s).phase = s.phase := rfl
@[simp] theorem clearKbuf_cmdw (s : State) : (clearKbuf s).cmdw = s.cmdw := rfl
@[simp] theorem clearKbuf_done (s : State) : (clearKbuf s).done = s.done := rfl
@[simp] theorem clearKbuf_ovr (s : State) : (clearKbuf s).ovr = s.ovr := rfl
@[simp] theorem clearKbuf_err (s : State) : (clearKbuf s).err = s.err := rfl
@[simp] theorem clearKbuf_ie (s : State) : (clearKbuf s).ie = s.ie := rfl
@[simp] theorem clearKbuf_ilen (s : State) : (clearKbuf s).ilen = s.ilen := rfl
@[simp] theorem clearKbuf_olen (s : State) : (clearKbuf s).olen = s.olen := rfl
@[simp] theorem clearKbuf_klen (s : State) : (clearKbuf s).klen = 0 := rfl
@[simp] theorem clearKbuf_dlen (s : State) : (clearKbuf s).dlen = s.dlen := rfl
@[simp] theorem clearKbuf_ctr (s : State) : (clearKbuf s).ctr = s.ctr := rfl
@[simp] theorem clearKbuf_value (s : State) : (clearKbuf s).value = s.value := rfl
@[simp] theorem clearKbuf_code (s : State) : (clearKbuf s).code = s.code := rfl
@[simp] theorem clearKbuf_ibuf (s : State) : (clearKbuf s).ibuf = s.ibuf := rfl
@[simp] theorem clearKbuf_obuf (s : State) : (clearKbuf s).obuf = s.obuf := rfl
@[simp] theorem clearKbuf_kbuf (s : State) : (clearKbuf s).kbuf = [] := rfl
@[simp] theorem clearKbuf_dbuf (s : State) : (clearKbuf s).dbuf = s.dbuf := rfl
@[simp] theorem clearKbuf_chan (s : State) : (clearKbuf s).chan = s.chan := rfl
@[simp] theorem clearKbuf_draws (s : State) : (clearKbuf s).draws = s.draws := rfl
@[simp] theorem clearKbuf_response (s : State) : (clearKbuf s).response = s.response := rfl
@[simp] theorem clearKbuf_schedule (s : State) : (clearKbuf s).schedule = s.schedule := rfl

/-! ### clearDbuf -/

@[simp] theorem clearDbuf_phase (s : State) : (clearDbuf s).phase = s.phase := rfl
@[simp] theorem clearDbuf_cmdw (s : State) : (clearDbuf s).cmdw = s.cmdw := rfl
@[simp] theorem clearDbuf_done (s : State) : (clearDbuf s).done = s.done := rfl
@[simp] theorem clearDbuf_ovr (s : State) : (clearDbuf s).ovr = s.ovr := rfl
@[simp] theorem clearDbuf_err (s : State) : (clearDbuf s).err = s.err := rfl
@[simp] theorem clearDbuf_ie (s : State) : (clearDbuf s).ie = s.ie := rfl
@[simp] theorem clearDbuf_ilen (s : State) : (clearDbuf s).ilen = s.ilen := rfl
@[simp] theorem clearDbuf_olen (s : State) : (clearDbuf s).olen = s.olen := rfl
@[simp] theorem clearDbuf_klen (s : State) : (clearDbuf s).klen = s.klen := rfl
@[simp] theorem clearDbuf_dlen (s : State) : (clearDbuf s).dlen = 0 := rfl
@[simp] theorem clearDbuf_ctr (s : State) : (clearDbuf s).ctr = s.ctr := rfl
@[simp] theorem clearDbuf_value (s : State) : (clearDbuf s).value = s.value := rfl
@[simp] theorem clearDbuf_code (s : State) : (clearDbuf s).code = s.code := rfl
@[simp] theorem clearDbuf_ibuf (s : State) : (clearDbuf s).ibuf = s.ibuf := rfl
@[simp] theorem clearDbuf_obuf (s : State) : (clearDbuf s).obuf = s.obuf := rfl
@[simp] theorem clearDbuf_kbuf (s : State) : (clearDbuf s).kbuf = s.kbuf := rfl
@[simp] theorem clearDbuf_dbuf (s : State) : (clearDbuf s).dbuf = [] := rfl
@[simp] theorem clearDbuf_chan (s : State) : (clearDbuf s).chan = s.chan := rfl
@[simp] theorem clearDbuf_draws (s : State) : (clearDbuf s).draws = s.draws := rfl
@[simp] theorem clearDbuf_response (s : State) : (clearDbuf s).response = s.response := rfl
@[simp] theorem clearDbuf_schedule (s : State) : (clearDbuf s).schedule = s.schedule := rfl

/-! ### clearCode -/

@[simp] theorem clearCode_phase (s : State) : (clearCode s).phase = s.phase := rfl
@[simp] theorem clearCode_cmdw (s : State) : (clearCode s).cmdw = s.cmdw := rfl
@[simp] theorem clearCode_done (s : State) : (clearCode s).done = s.done := rfl
@[simp] theorem clearCode_ovr (s : State) : (clearCode s).ovr = s.ovr := rfl
@[simp] theorem clearCode_err (s : State) : (clearCode s).err = s.err := rfl
@[simp] theorem clearCode_ie (s : State) : (clearCode s).ie = s.ie := rfl
@[simp] theorem clearCode_ilen (s : State) : (clearCode s).ilen = s.ilen := rfl
@[simp] theorem clearCode_olen (s : State) : (clearCode s).olen = s.olen := rfl
@[simp] theorem clearCode_klen (s : State) : (clearCode s).klen = s.klen := rfl
@[simp] theorem clearCode_dlen (s : State) : (clearCode s).dlen = s.dlen := rfl
@[simp] theorem clearCode_ctr (s : State) : (clearCode s).ctr = s.ctr := rfl
@[simp] theorem clearCode_value (s : State) : (clearCode s).value = 0 := rfl
@[simp] theorem clearCode_code (s : State) : (clearCode s).code = 0 := rfl
@[simp] theorem clearCode_ibuf (s : State) : (clearCode s).ibuf = s.ibuf := rfl
@[simp] theorem clearCode_obuf (s : State) : (clearCode s).obuf = s.obuf := rfl
@[simp] theorem clearCode_kbuf (s : State) : (clearCode s).kbuf = s.kbuf := rfl
@[simp] theorem clearCode_dbuf (s : State) : (clearCode s).dbuf = s.dbuf := rfl
@[simp] theorem clearCode_chan (s : State) : (clearCode s).chan = s.chan := rfl
@[simp] theorem clearCode_draws (s : State) : (clearCode s).draws = s.draws := rfl
@[simp] theorem clearCode_response (s : State) : (clearCode s).response = s.response := rfl
@[simp] theorem clearCode_schedule (s : State) : (clearCode s).schedule = s.schedule := rfl

/-! ### sendRequest -/

@[simp] theorem sendRequest_phase (r : Request) (s : State) : (sendRequest r s).phase = .wait := rfl
@[simp] theorem sendRequest_cmdw (r : Request) (s : State) : (sendRequest r s).cmdw = s.cmdw := rfl
@[simp] theorem sendRequest_done (r : Request) (s : State) : (sendRequest r s).done = s.done := rfl
@[simp] theorem sendRequest_ovr (r : Request) (s : State) : (sendRequest r s).ovr = s.ovr := rfl
@[simp] theorem sendRequest_err (r : Request) (s : State) : (sendRequest r s).err = s.err := rfl
@[simp] theorem sendRequest_ie (r : Request) (s : State) : (sendRequest r s).ie = s.ie := rfl
@[simp] theorem sendRequest_ilen (r : Request) (s : State) : (sendRequest r s).ilen = s.ilen := rfl
@[simp] theorem sendRequest_olen (r : Request) (s : State) : (sendRequest r s).olen = s.olen := rfl
@[simp] theorem sendRequest_klen (r : Request) (s : State) : (sendRequest r s).klen = s.klen := rfl
@[simp] theorem sendRequest_dlen (r : Request) (s : State) : (sendRequest r s).dlen = s.dlen := rfl
@[simp] theorem sendRequest_ctr (r : Request) (s : State) : (sendRequest r s).ctr = s.ctr := rfl
@[simp] theorem sendRequest_value (r : Request) (s : State) : (sendRequest r s).value = s.value := rfl
@[simp] theorem sendRequest_code (r : Request) (s : State) : (sendRequest r s).code = s.code := rfl
@[simp] theorem sendRequest_ibuf (r : Request) (s : State) : (sendRequest r s).ibuf = s.ibuf := rfl
@[simp] theorem sendRequest_obuf (r : Request) (s : State) : (sendRequest r s).obuf = s.obuf := rfl
@[simp] theorem sendRequest_kbuf (r : Request) (s : State) : (sendRequest r s).kbuf = s.kbuf := rfl
@[simp] theorem sendRequest_dbuf (r : Request) (s : State) : (sendRequest r s).dbuf = s.dbuf := rfl
@[simp] theorem sendRequest_chan (r : Request) (s : State) : (sendRequest r s).chan = .req r := rfl
@[simp] theorem sendRequest_draws (r : Request) (s : State) : (sendRequest r s).draws = s.draws := rfl
@[simp] theorem sendRequest_response (r : Request) (s : State) : (sendRequest r s).response = s.response := rfl
@[simp] theorem sendRequest_schedule (r : Request) (s : State) : (sendRequest r s).schedule = s.schedule := rfl

/-! ### consumeAnswer -/

@[simp] theorem consumeAnswer_phase (s : State) : (consumeAnswer s).phase = s.phase := rfl
@[simp] theorem consumeAnswer_cmdw (s : State) : (consumeAnswer s).cmdw = s.cmdw := rfl
@[simp] theorem consumeAnswer_done (s : State) : (consumeAnswer s).done = s.done := rfl
@[simp] theorem consumeAnswer_ovr (s : State) : (consumeAnswer s).ovr = s.ovr := rfl
@[simp] theorem consumeAnswer_err (s : State) : (consumeAnswer s).err = s.err := rfl
@[simp] theorem consumeAnswer_ie (s : State) : (consumeAnswer s).ie = s.ie := rfl
@[simp] theorem consumeAnswer_ilen (s : State) : (consumeAnswer s).ilen = s.ilen := rfl
@[simp] theorem consumeAnswer_olen (s : State) : (consumeAnswer s).olen = s.olen := rfl
@[simp] theorem consumeAnswer_klen (s : State) : (consumeAnswer s).klen = s.klen := rfl
@[simp] theorem consumeAnswer_dlen (s : State) : (consumeAnswer s).dlen = s.dlen := rfl
@[simp] theorem consumeAnswer_ctr (s : State) : (consumeAnswer s).ctr = s.ctr := rfl
@[simp] theorem consumeAnswer_value (s : State) : (consumeAnswer s).value = s.value := rfl
@[simp] theorem consumeAnswer_code (s : State) : (consumeAnswer s).code = s.code := rfl
@[simp] theorem consumeAnswer_ibuf (s : State) : (consumeAnswer s).ibuf = s.ibuf := rfl
@[simp] theorem consumeAnswer_obuf (s : State) : (consumeAnswer s).obuf = s.obuf := rfl
@[simp] theorem consumeAnswer_kbuf (s : State) : (consumeAnswer s).kbuf = s.kbuf := rfl
@[simp] theorem consumeAnswer_dbuf (s : State) : (consumeAnswer s).dbuf = s.dbuf := rfl
@[simp] theorem consumeAnswer_chan (s : State) : (consumeAnswer s).chan = .idle := rfl
@[simp] theorem consumeAnswer_draws (s : State) : (consumeAnswer s).draws = s.draws := rfl
@[simp] theorem consumeAnswer_response (s : State) : (consumeAnswer s).response = s.response := rfl
@[simp] theorem consumeAnswer_schedule (s : State) : (consumeAnswer s).schedule = s.schedule := rfl

/-! ### respond -/

@[simp] theorem respond_phase (r : HostResponse) (s : State) : (respond r s).phase = s.phase := rfl
@[simp] theorem respond_cmdw (r : HostResponse) (s : State) : (respond r s).cmdw = s.cmdw := rfl
@[simp] theorem respond_done (r : HostResponse) (s : State) : (respond r s).done = s.done := rfl
@[simp] theorem respond_ovr (r : HostResponse) (s : State) : (respond r s).ovr = s.ovr := rfl
@[simp] theorem respond_err (r : HostResponse) (s : State) : (respond r s).err = s.err := rfl
@[simp] theorem respond_ie (r : HostResponse) (s : State) : (respond r s).ie = s.ie := rfl
@[simp] theorem respond_ilen (r : HostResponse) (s : State) : (respond r s).ilen = s.ilen := rfl
@[simp] theorem respond_olen (r : HostResponse) (s : State) : (respond r s).olen = s.olen := rfl
@[simp] theorem respond_klen (r : HostResponse) (s : State) : (respond r s).klen = s.klen := rfl
@[simp] theorem respond_dlen (r : HostResponse) (s : State) : (respond r s).dlen = s.dlen := rfl
@[simp] theorem respond_ctr (r : HostResponse) (s : State) : (respond r s).ctr = s.ctr := rfl
@[simp] theorem respond_value (r : HostResponse) (s : State) : (respond r s).value = s.value := rfl
@[simp] theorem respond_code (r : HostResponse) (s : State) : (respond r s).code = s.code := rfl
@[simp] theorem respond_ibuf (r : HostResponse) (s : State) : (respond r s).ibuf = s.ibuf := rfl
@[simp] theorem respond_obuf (r : HostResponse) (s : State) : (respond r s).obuf = s.obuf := rfl
@[simp] theorem respond_kbuf (r : HostResponse) (s : State) : (respond r s).kbuf = s.kbuf := rfl
@[simp] theorem respond_dbuf (r : HostResponse) (s : State) : (respond r s).dbuf = s.dbuf := rfl
@[simp] theorem respond_chan (r : HostResponse) (s : State) : (respond r s).chan = s.chan := rfl
@[simp] theorem respond_draws (r : HostResponse) (s : State) : (respond r s).draws = s.draws := rfl
@[simp] theorem respond_response (r : HostResponse) (s : State) : (respond r s).response = some r := rfl
@[simp] theorem respond_schedule (r : HostResponse) (s : State) : (respond r s).schedule = s.schedule := rfl

/-! ### resetBlock -/

@[simp] theorem resetBlock_phase (s : State) : (resetBlock s).phase = .idle := rfl
@[simp] theorem resetBlock_cmdw (s : State) : (resetBlock s).cmdw = 0 := rfl
@[simp] theorem resetBlock_done (s : State) : (resetBlock s).done = false := rfl
@[simp] theorem resetBlock_ovr (s : State) : (resetBlock s).ovr = false := rfl
@[simp] theorem resetBlock_err (s : State) : (resetBlock s).err = 0 := rfl
@[simp] theorem resetBlock_ie (s : State) : (resetBlock s).ie = false := rfl
@[simp] theorem resetBlock_ilen (s : State) : (resetBlock s).ilen = 0 := rfl
@[simp] theorem resetBlock_olen (s : State) : (resetBlock s).olen = 0 := rfl
@[simp] theorem resetBlock_klen (s : State) : (resetBlock s).klen = 0 := rfl
@[simp] theorem resetBlock_dlen (s : State) : (resetBlock s).dlen = 0 := rfl
@[simp] theorem resetBlock_ctr (s : State) : (resetBlock s).ctr = 0 := rfl
@[simp] theorem resetBlock_value (s : State) : (resetBlock s).value = 0 := rfl
@[simp] theorem resetBlock_code (s : State) : (resetBlock s).code = 0 := rfl
@[simp] theorem resetBlock_ibuf (s : State) : (resetBlock s).ibuf = [] := rfl
@[simp] theorem resetBlock_obuf (s : State) : (resetBlock s).obuf = [] := rfl
@[simp] theorem resetBlock_kbuf (s : State) : (resetBlock s).kbuf = [] := rfl
@[simp] theorem resetBlock_dbuf (s : State) : (resetBlock s).dbuf = [] := rfl
@[simp] theorem resetBlock_chan (s : State) : (resetBlock s).chan = .idle := rfl
@[simp] theorem resetBlock_draws (s : State) : (resetBlock s).draws = s.draws := rfl
@[simp] theorem resetBlock_response (s : State) : (resetBlock s).response = none := rfl
@[simp] theorem resetBlock_schedule (s : State) : (resetBlock s).schedule = s.schedule := rfl

end Sys2Proof.Machine
end

