-- ==== Sys2Proof/Laws/Meanings.lean ====
section
/-! SUPPORT. What each shared operation of the meanings can do, once: lengths of the functions' results, the pre-check, and
the cases of a command and of a step. -/

namespace Sys2Proof.Machine

/-! ## Capacities and destinations -/

@[simp] theorem nIbuf_eq : Config.nIbuf = 256 := rfl
@[simp] theorem nObuf_eq : Config.nObuf = 512 := rfl
@[simp] theorem nKbuf_eq : Config.nKbuf = 256 := rfl
@[simp] theorem nDbuf_eq : Config.nDbuf = 64 := rfl
@[simp] theorem dlenMin_eq : Config.dlenMin = 20 := rfl
@[simp] theorem digitsMin_eq : Config.digitsMin = 6 := rfl
@[simp] theorem digitsMax_eq : Config.digitsMax = 10 := rfl

/-- A length below 2^32 is what its 32-bit register holds. -/
theorem lengthWord_toNat {n : Nat} (h : n < 2 ^ 32) : (BitVec.ofNat 32 n).toNat = n := by
  rw [BitVec.toNat_ofNat, Nat.mod_eq_of_lt h]

@[simp] theorem clearDest_b32enc (s : State) : clearDest .b32enc s = clearObuf s := rfl
@[simp] theorem clearDest_b32dec_obuf (s : State) : clearDest (.b32dec .obuf) s = clearObuf s := rfl
@[simp] theorem clearDest_b32dec_kbuf (s : State) : clearDest (.b32dec .kbuf) s = clearKbuf s := rfl
@[simp] theorem clearDest_hmac (alg : AlgId) (src : MsgSrc) (s : State) : clearDest (.hmac alg src) s = clearDbuf s := rfl
@[simp] theorem clearDest_dtrunc (digits : Nat) (s : State) :
    clearDest (.dtrunc digits) s = clearCode (clearObuf s) := rfl
@[simp] theorem clearDest_hotp (alg : AlgId) (digits : Nat) (s : State) :
    clearDest (.hotp alg digits) s = clearKbuf (clearDbuf (clearCode (clearObuf s))) := rfl

/-- What a command reads from IBUF is not touched by `ClearDest` (R98: no source is a destination). -/
@[simp] theorem inputBytes_clearDest (i : Instr) (s : State) : inputBytes (clearDest i s) = inputBytes s := by
  cases i with
  | b32dec dest => cases dest <;> rfl
  | _ => rfl

@[simp] theorem clearDest_ilen (i : Instr) (s : State) : (clearDest i s).ilen = s.ilen := by
  cases i with
  | b32dec dest => cases dest <;> rfl
  | _ => rfl

@[simp] theorem clearDest_phase (i : Instr) (s : State) : (clearDest i s).phase = s.phase := by
  cases i with
  | b32dec dest => cases dest <;> rfl
  | _ => rfl

/-! ## Lengths -/

@[simp] theorem b32enc_length (b : List Byte) : (b32enc b).length = (8 * b.length + 4) / 5 := by simp [b32enc]

@[simp] theorem b32dec_length (t : List Byte) : (b32dec t).length = 5 * (t.filterMap charval).length / 8 := by
  simp [b32dec]

/-- A text decodes to at most five eighths of its length (R117). -/
theorem b32dec_length_le (t : List Byte) : (b32dec t).length ≤ 5 * t.length / 8 := by
  rw [b32dec_length]
  have := List.length_filterMap_le charval t
  omega

@[simp] theorem render_length (c digits : Nat) : (render c digits).length = digits := by simp [render]

@[simp] theorem ctrBytes_length (c : BitVec 64) : (ctrBytes c).length = 8 := by simp [ctrBytes]

@[simp] theorem hmac_length (alg : Alg) (key msg : List Byte) : (hmac alg key msg).length = outlen alg := by simp [hmac]

@[simp] theorem hash_length (alg : Alg) (msg : List Byte) : (hash alg msg).length = outlen alg := by simp [hash]

@[simp] theorem inputBytes_length (s : State) : (inputBytes s).length = s.ilen.toNat := by simp [inputBytes]

@[simp] theorem keyBytes_length (s : State) : (keyBytes s).length = s.klen.toNat := by simp [keyBytes]

@[simp] theorem digestBytes_length (s : State) : (digestBytes s).length = s.dlen.toNat := by simp [digestBytes]

/-- The digest an answer hands over has exactly `dlen` bytes when it fits DBUF. -/
theorem digest_length (dlen : Fin 128) (d : Vector Byte 64) (h : ¬ Config.nDbuf < dlen.val) :
    (d.toList.take dlen.val).length = dlen.val := by
  simp [Config.nDbuf] at h ⊢
  omega

/-! ## The pre-check -/

theorem firstError_eq_none {checks : List ErrKind} : firstError checks = .none ↔ ∀ e ∈ checks, e = .none := by
  induction checks with
  | nil => simp [firstError]
  | cons e rest ih =>
    unfold firstError
    split <;> simp_all

theorem lengthCheck_eq_none {len : Word} {cap : Nat} : lengthCheck len cap = .none ↔ len.toNat ≤ cap := by
  unfold lengthCheck
  split <;> simp <;> omega

theorem digitsCheck_eq_none {digits : Nat} : digitsCheck digits = .none ↔ 6 ≤ digits ∧ digits ≤ 10 := by
  unfold digitsCheck Config.digitsMin Config.digitsMax
  split <;> simp <;> omega

theorem lengthCheck_cases (len : Word) (cap : Nat) : lengthCheck len cap = .none ∨ lengthCheck len cap = .badLength := by
  unfold lengthCheck
  split <;> simp

theorem messageCheck_cases (src : MsgSrc) (s : State) : messageCheck src s = .none ∨ messageCheck src s = .badLength := by
  cases src
  · exact lengthCheck_cases _ _
  · exact .inl rfl

theorem digitsCheck_cases (digits : Nat) : digitsCheck digits = .none ∨ digitsCheck digits = .invalidConfiguration := by
  unfold digitsCheck
  split <;> simp

theorem preChecked_pass {checks : List ErrKind} (h : ∀ e ∈ checks, e = .none) (body : State → State) (s : State) :
    preChecked checks body s = .next (body s) := by
  rw [preChecked, if_pos (firstError_eq_none.mpr h)]

/-- All a pre-checked command can do: complete with the first error, the data as it was, or run its body. -/
theorem preChecked_cases {checks : List ErrKind} {body : State → State} {s t : State}
    (h : preChecked checks body s = .next t) :
    ((∀ e ∈ checks, e = .none) ∧ t = body s) ∨
      (firstError checks ≠ .none ∧ t = complete (firstError checks) s) := by
  unfold preChecked at h
  split at h
  · next hc => exact .inl ⟨firstError_eq_none.mp hc, by injection h with h; exact h.symm⟩
  · next hc => exact .inr ⟨hc, by injection h with h; exact h.symm⟩

/-- The first error is one of the list. -/
theorem firstError_mem {checks : List ErrKind} (h : firstError checks ≠ .none) : firstError checks ∈ checks := by
  induction checks with
  | nil => simp [firstError] at h
  | cons e rest ih =>
    unfold firstError at h ⊢
    split at h
    · next he => rw [if_pos he]; exact List.mem_cons_of_mem _ (ih h)
    · next he => rw [if_neg he]; exact List.mem_cons_self

/-- The code of an error kind tells the kinds apart. -/
theorem code_injective {e e' : ErrKind} (h : e.code = e'.code) : e = e' := by
  cases e <;> cases e' <;> first | rfl | (exact absurd h (by decide))

/-! ## A command's cases -/

theorem execB32enc_cases {s t : State} (h : exec .b32enc s = .next t) :
    (s.ilen.toNat ≤ 256 ∧ t = b32encBody s) ∨ t = complete .badLength s := by
  obtain ⟨hc, ht⟩ | ⟨hc, ht⟩ := preChecked_cases h
  · exact .inl ⟨lengthCheck_eq_none.mp (hc _ (by simp)), ht⟩
  · have hm := List.mem_singleton.mp (firstError_mem hc)
    have hm := hm.trans ((lengthCheck_cases _ _).resolve_left (hm ▸ hc))
    exact .inr (by rw [ht, hm])

theorem execB32dec_cases {dest : DecDest} {s t : State} (h : exec (.b32dec dest) s = .next t) :
    (s.ilen.toNat ≤ 256 ∧ t = b32decBody dest s) ∨ t = complete .badLength s := by
  obtain ⟨hc, ht⟩ | ⟨hc, ht⟩ := preChecked_cases h
  · exact .inl ⟨lengthCheck_eq_none.mp (hc _ (by simp)), ht⟩
  · have hm := List.mem_singleton.mp (firstError_mem hc)
    have hm := hm.trans ((lengthCheck_cases _ _).resolve_left (hm ▸ hc))
    exact .inr (by rw [ht, hm])

theorem execHmac_cases {alg : AlgId} {src : MsgSrc} {s t : State} (h : exec (.hmac alg src) s = .next t) :
    (s.phase = .wait ∧ t = hmacTake s) ∨
      (s.phase ≠ .wait ∧
        ((∃ n, alg = .unsupported n ∧ t = complete .unsupportedAlgorithm s) ∨
          (∃ a, alg = .known a ∧ s.klen.toNat ≤ 256 ∧ (src = .ibuf → s.ilen.toNat ≤ 256) ∧ t = hmacSend a src s) ∨
          (∃ a, alg = .known a ∧ t = complete .badLength s))) := by
  simp only [exec, execHmac] at h
  split at h
  · next hp => exact .inl ⟨hp, by injection h with h; exact h.symm⟩
  · next hp =>
    refine .inr ⟨hp, ?_⟩
    unfold hmacStart at h
    cases alg with
    | unsupported n => exact .inl ⟨n, rfl, by injection h with h; exact h.symm⟩
    | known a =>
      obtain ⟨hc, ht⟩ | ⟨hc, ht⟩ := preChecked_cases h
      · refine .inr (.inl ⟨a, rfl, lengthCheck_eq_none.mp (hc _ (by simp)), ?_, ht⟩)
        rintro rfl
        exact lengthCheck_eq_none.mp (hc (messageCheck .ibuf s) (by simp))
      · refine .inr (.inr ⟨a, rfl, ?_⟩)
        obtain hm | hm := List.mem_pair.mp (firstError_mem hc)
        · have hm := hm.trans ((lengthCheck_cases _ _).resolve_left (hm ▸ hc))
          exact by rw [ht, hm]
        · have hm := hm.trans ((messageCheck_cases _ _).resolve_left (hm ▸ hc))
          exact by rw [ht, hm]

theorem execDtrunc_cases {digits : Nat} {s t : State} (h : exec (.dtrunc digits) s = .next t) :
    (6 ≤ digits ∧ digits ≤ 10 ∧ s.dlen.toNat ≤ 64 ∧ t = dtruncBody digits s) ∨
      t = complete .invalidConfiguration s ∨ t = complete .badLength s := by
  obtain ⟨hc, ht⟩ | ⟨hc, ht⟩ := preChecked_cases h
  · have hd := digitsCheck_eq_none.mp (hc (digitsCheck digits) (by simp))
    exact .inl ⟨hd.1, hd.2, lengthCheck_eq_none.mp (hc _ (by simp)), ht⟩
  · obtain hm | hm := List.mem_pair.mp (firstError_mem hc)
    · have hm := hm.trans ((digitsCheck_cases _).resolve_left (hm ▸ hc))
      exact .inr (.inl (by rw [ht, hm]))
    · have hm := hm.trans ((lengthCheck_cases _ _).resolve_left (hm ▸ hc))
      exact .inr (.inr (by rw [ht, hm]))

theorem execHotp_cases {alg : AlgId} {digits : Nat} {s t : State} (h : exec (.hotp alg digits) s = .next t) :
    (s.phase = .wait ∧ t = hotpTake digits s) ∨
      (s.phase ≠ .wait ∧
        ((∃ n, alg = .unsupported n ∧ t = complete .unsupportedAlgorithm s) ∨
          (∃ a, alg = .known a ∧ 6 ≤ digits ∧ digits ≤ 10 ∧ s.ilen.toNat ≤ 256 ∧ t = hotpSend a digits s) ∨
          (∃ a, alg = .known a ∧ (t = complete .invalidConfiguration s ∨ t = complete .badLength s)))) := by
  simp only [exec, execHotp] at h
  split at h
  · next hp => exact .inl ⟨hp, by injection h with h; exact h.symm⟩
  · next hp =>
    refine .inr ⟨hp, ?_⟩
    unfold hotpStart at h
    cases alg with
    | unsupported n => exact .inl ⟨n, rfl, by injection h with h; exact h.symm⟩
    | known a =>
      obtain ⟨hc, ht⟩ | ⟨hc, ht⟩ := preChecked_cases h
      · have hd := digitsCheck_eq_none.mp (hc (digitsCheck digits) (by simp))
        exact .inr (.inl ⟨a, rfl, hd.1, hd.2, lengthCheck_eq_none.mp (hc _ (by simp)), ht⟩)
      · refine .inr (.inr ⟨a, rfl, ?_⟩)
        obtain hm | hm := List.mem_pair.mp (firstError_mem hc)
        · have hm := hm.trans ((digitsCheck_cases _).resolve_left (hm ▸ hc))
          exact .inl (by rw [ht, hm])
        · have hm := hm.trans ((lengthCheck_cases _ _).resolve_left (hm ▸ hc))
          exact .inr (by rw [ht, hm])

/-! ## A step's cases -/

/-- All a step can do: the first move lined up, or the sequencer's. -/
theorem step_cases {s t : State} (h : step s = .next t) :
    (s.schedule = [] ∧ sequencerStep s = .next t) ∨
      (∃ rest, s.schedule = .sequencer :: rest ∧ sequencerStep { s with schedule := rest } = .next t) ∨
      (∃ x rest, s.schedule = .core x :: rest ∧ t = coreRespond x { s with schedule := rest }) ∨
      (∃ a rest, s.schedule = .read a :: rest ∧ t = hostRead a { s with schedule := rest }) ∨
      (∃ a v rest, s.schedule = .write a v :: rest ∧ t = hostWrite a v { s with schedule := rest }) ∨
      (∃ rest, s.schedule = .reset :: rest ∧ t = resetBlock { s with schedule := rest }) := by
  unfold step takeTurn at h
  split at h
  · next hs => exact .inl ⟨hs, h⟩
  · next m rest hs =>
    refine .inr ?_
    cases m with
    | sequencer => exact .inl ⟨rest, hs, h⟩
    | core x => exact .inr (.inl ⟨x, rest, hs, by injection h with h; exact h.symm⟩)
    | read a => exact .inr (.inr (.inl ⟨a, rest, hs, by injection h with h; exact h.symm⟩))
    | write a v => exact .inr (.inr (.inr (.inl ⟨a, v, rest, hs, by injection h with h; exact h.symm⟩)))
    | reset => exact .inr (.inr (.inr (.inr ⟨rest, hs, by injection h with h; exact h.symm⟩)))

/-- All the sequencer can do: hold the state, complete an illegal word, or run a command. -/
theorem sequencerStep_cases {s t : State} (h : sequencerStep s = .next t) :
    t = s ∨ (s.phase = .exec ∧ (∃ e, decode s.cmdw = .error e) ∧ t = complete .illegalCommand s) ∨
      (∃ i, s.phase = .exec ∧ decode s.cmdw = .ok i ∧ exec i s = .next t) ∨
      (∃ i, s.phase = .wait ∧ waitingInstr s.cmdw = some i ∧ exec i s = .next t) := by
  unfold sequencerStep at h
  split at h
  · exact .inl (by injection h with h; exact h.symm)
  · next hp =>
    unfold runCommand at h
    split at h
    · next i hd => exact .inr (.inr (.inl ⟨i, hp, hd, h⟩))
    · next e hd => exact .inr (.inl ⟨hp, ⟨e, hd⟩, by injection h with h; exact h.symm⟩)
  · next hp =>
    unfold runWaiting at h
    split at h
    · next i hw => exact .inr (.inr (.inr ⟨i, hp, hw, h⟩))
    · exact .inl (by injection h with h; exact h.symm)

end Sys2Proof.Machine
end

