-- ==== Sys2Proof/Laws/PerInstr.lean ====
section
/-! SUPPORT. Per-instruction statements about the commands as syntax: family TableRow, that the word of a well-formed
command matches its row of R100, match and mask as spec/opcode_table.json gives them. -/

namespace Sys2Proof.Laws

/-- The row's mask (R100). -/
def rowMask : Instr → Word
  | .b32enc => 0xFFFFFFFF
  | .b32dec _ => 0xFFFFEFFF
  | .hmac _ _ => 0xFFFFEF0F
  | .dtrunc _ => 0xFFFFF0FF
  | .hotp _ _ => 0xFFFFF00F

/-- The row's match (R100). -/
def rowMatch : Instr → Word
  | .b32enc => 0x00000001
  | .b32dec _ => 0x00000002
  | .hmac _ _ => 0x00000003
  | .dtrunc _ => 0x00000004
  | .hotp _ _ => 0x00000005

/-- The word of a well-formed command is a word of its row. -/
def TableRow.Statement (i : Instr) : Prop := i.wellFormed = true → encode i &&& rowMask i = rowMatch i

theorem TableRow.b32enc : TableRow.Statement .b32enc := fun _ => by decide

theorem TableRow.b32dec (dest : DecDest) : TableRow.Statement (.b32dec dest) := fun _ => by
  cases dest <;> decide

theorem TableRow.hmac (alg : AlgId) (src : MsgSrc) : TableRow.Statement (.hmac alg src) := fun h => by
  have key : ∀ n < 16, ∀ s < 2, packWord 3 n 0 s &&& 0xFFFFEF0F = 0x00000003 := by decide +kernel
  have hn : alg.number < 16 := by
    cases alg with
    | known a => cases a <;> decide
    | unsupported n => simp [Instr.wellFormed, AlgId.wellFormed] at h; simp [AlgId.number]; omega
  exact key _ hn _ (by cases src <;> decide)

theorem TableRow.dtrunc (digits : Nat) : TableRow.Statement (.dtrunc digits) := fun h => by
  have key : ∀ n < 16, packWord 4 0 n 0 &&& 0xFFFFF0FF = 0x00000004 := by decide +kernel
  exact key _ (by simp [Instr.wellFormed, digitsWellFormed] at h; omega)

theorem TableRow.hotp (alg : AlgId) (digits : Nat) : TableRow.Statement (.hotp alg digits) := fun h => by
  have key : ∀ n < 16, ∀ k < 16, packWord 5 n k 0 &&& 0xFFFFF00F = 0x00000005 := by decide +kernel
  simp only [Instr.wellFormed, digitsWellFormed, Bool.and_eq_true, decide_eq_true_eq] at h
  have hn : alg.number < 16 := by
    cases alg with
    | known a => cases a <;> decide
    | unsupported n => simp [AlgId.wellFormed] at h; simp [AlgId.number]; omega
  exact key _ hn _ (by omega)

end Sys2Proof.Laws
end

