-- ==== Sys2Proof/Tests/Slice0.lean ====
section
/-! SUPPORT. The model's own tests: expected values from spec/30_encoding.md and spec/95_test_vectors.md, written out by
hand, and the witnesses that the hypotheses of the obligations can be met. -/

namespace Sys2Proof.Tests

open Sys2Proof Sys2Proof.Machine

-- One theorem at a time: each pending kernel evaluation of a test would hold a thread of its own.
set_option Elab.async false

/-! ## Helpers -/

/-- The next state of an outcome; reset where there is none, which no test reaches unseen (`EveryStepAnswersNext`). -/
def after (o : Host.Outcome State Fault Refusal) : State :=
  match o with
  | .next t => t
  | _ => State.reset

/-- `IBUF` and `ILEN` staged with `bs`, the word `w` issued. -/
def staged (w : Word) (bs : List Byte) : State :=
  { State.reset with cmdw := w, phase := .exec, ibuf := Memory.ofBytes bs, ilen := BitVec.ofNat 32 bs.length }

/-- `DBUF` and `DLEN` staged with `bs`, the word `w` issued. -/
def stagedDigest (w : Word) (bs : List Byte) : State :=
  { State.reset with cmdw := w, phase := .exec, dbuf := Memory.ofBytes bs, dlen := BitVec.ofNat 32 bs.length }

/-- The word `w` waited on, the channel as given. -/
def waiting (w : Word) (c : Chan) : State := { State.reset with cmdw := w, phase := .wait, chan := c }

/-- The request of a `HOTP SHA1` on the text `MY` with `CTR` = 0. -/
def myRequest : Request := ⟨.sha1, [0x66], [0, 0, 0, 0, 0, 0, 0, 0]⟩

/-- A request is outstanding, the answer `x` of the core lined up. -/
def asked (w : Word) (moves : List Move) : State := { waiting w (.req myRequest) with schedule := moves }

/-- An idle state with the moves lined up, `DONE` and `OVR` set, `ERR` = 5 (section 2.12). -/
def idleWith (moves : List Move) : State :=
  { State.reset with done := true, ovr := true, err := 5, schedule := moves }

/-- An answer whose 64 bytes start with `bs`. -/
def answer (n : Fin 128) (bs : List Byte) : Answer := .ok n (Vector.ofFn fun i => bs.getD i.val 0)

/-- The digest of RFC 4226 section 5.4 (spec/95_test_vectors.md section 4.2). -/
def rfcDigest : List Byte :=
  [0x1F, 0x86, 0x98, 0x69, 0x0E, 0x02, 0xCA, 0x16, 0x61, 0x85, 0x50, 0xEF, 0x7F, 0x19, 0xDA, 0x8E, 0x94, 0x5B, 0x55, 0x5A]

/-- 20 bytes: 15 zeros, then 12 34 56 78 0F (row `off15` of section 2.7). -/
def off15 : List Byte := [0, 0, 0, 0, 0, 0, 0, 0, 0, 0, 0, 0, 0, 0, 0, 0x12, 0x34, 0x56, 0x78, 0x0F]

/-! ## WellFormed: each check refuses an ill-formed term -/

theorem test_wf_alg_low : (Instr.hmac (.unsupported 2) .ibuf).wellFormed = false := by decide
theorem test_wf_alg_high : (Instr.hmac (.unsupported 16) .ctr).wellFormed = false := by decide
theorem test_wf_dtrunc : (Instr.dtrunc 16).wellFormed = false := by decide
theorem test_wf_hotp_alg : (Instr.hotp (.unsupported 1) 6).wellFormed = false := by decide
theorem test_wf_hotp_digits : (Instr.hotp (.known .sha1) 16).wellFormed = false := by decide
theorem test_wf_accepts :
    Instr.b32enc.wellFormed = true ∧ (Instr.b32dec .kbuf).wellFormed = true ∧
      (Instr.hotp (.unsupported 15) 15).wellFormed = true := by decide
theorem test_legal_limits :
    (Instr.dtrunc 5).legal = false ∧ (Instr.dtrunc 6).legal = true ∧ (Instr.dtrunc 10).legal = true ∧
      (Instr.dtrunc 11).legal = false ∧ (Instr.hotp (.unsupported 3) 6).legal = false := by decide

/-! ## Decode: words written out bit by bit as ZERO, SEL, DIGITS, ALG, OP (R91, R100) -/

theorem test_decode_b32enc : decode 0b0000000000000000000_0_0000_0000_0001 = .ok .b32enc := by decide +kernel
theorem test_decode_b32dec : decode 0b0000000000000000000_1_0000_0000_0010 = .ok (.b32dec .kbuf) := by decide +kernel
theorem test_decode_b32dec_obuf : decode 0b0000000000000000000_0_0000_0000_0010 = .ok (.b32dec .obuf) := by decide +kernel
theorem test_decode_hmac : decode 0b0000000000000000000_1_0000_0001_0011 = .ok (.hmac (.known .sha256) .ctr) := by
  decide +kernel
theorem test_decode_hmac_unsupported : decode 0b0000000000000000000_0_0000_1111_0011 = .ok (.hmac (.unsupported 15) .ibuf) := by
  decide +kernel
theorem test_decode_dtrunc : decode 0b0000000000000000000_0_1010_0000_0100 = .ok (.dtrunc 10) := by decide +kernel
theorem test_decode_hotp : decode 0b0000000000000000000_0_1000_0010_0101 = .ok (.hotp (.known .sha512) 8) := by
  decide +kernel
theorem test_decode_bad_fields : decode 0x00000635 = .ok (.hotp (.unsupported 3) 6) ∧ decode 0x00000F04 = .ok (.dtrunc 15) := by
  decide +kernel

/-- Section 2.10, the rows that return 7, each refused under its name. -/
theorem test_decode_refuses :
    decode 0x00000000 = .error .noCommand ∧ decode 0x00000006 = .error .noCommand ∧ decode 0x0000000F = .error .noCommand ∧
      decode 0xFFFFFFFF = .error .reservedBits ∧ decode 0x00002003 = .error .reservedBits ∧
      decode 0x80000001 = .error .reservedBits ∧ decode 0x00000011 = .error .unusedAlg ∧
      decode 0x00000101 = .error .unusedDigits ∧ decode 0x00001001 = .error .unusedSel ∧
      decode 0x00000012 = .error .unusedAlg ∧ decode 0x00000102 = .error .unusedDigits ∧
      decode 0x00000103 = .error .unusedDigits ∧ decode 0x00000614 = .error .unusedAlg ∧
      decode 0x00001604 = .error .unusedSel ∧ decode 0x00001605 = .error .unusedSel := by decide +kernel

/-- R100's list: the words of the assembler's lines. -/
theorem test_encode :
    encode .b32enc = 0x00000001 ∧ encode (.b32dec .kbuf) = 0x00001002 ∧ encode (.hmac (.known .sha512) .ctr) = 0x00001023 ∧
      encode (.dtrunc 7) = 0x00000704 ∧ encode (.hotp (.known .sha256) 9) = 0x00000915 := by decide +kernel

theorem test_table_word :
    decodeTableWord 32 0x00000A25 = some (.hotp (.known .sha512) 10) ∧ decodeTableWord 32 0 = none := by decide +kernel

/-- The word placed by `withFetchWord` is the next step's. -/
theorem test_fetch_word :
    (after (step (State.reset.withFetchWord 32 0x00000605))).err = 1 ∧
      (after (step (State.reset.withFetchWord 32 0x00000003))).chan = .req ⟨.sha1, [], []⟩ ∧
      (after (step (State.reset.withFetchWord 32 0))).err = 7 := by decide +kernel

/-- R101. -/
theorem test_asm :
    asm (.hmac (.unsupported 3) .ibuf) = "HMAC #3, IBUF" ∧ asm (.hotp (.known .sha512) 10) = "HOTP SHA512, 10" := by decide +kernel

/-- The constraints of R5. -/
theorem test_parameters :
    Config.nIbuf % 4 = 0 ∧ Config.nObuf % 4 = 0 ∧ Config.nKbuf % 4 = 0 ∧ (8 * Config.nIbuf + 4) / 5 ≤ Config.nObuf ∧
      10 ≤ Config.nObuf ∧ 5 * Config.nIbuf / 8 ≤ Config.nKbuf ∧ 64 ≤ Config.nDbuf := by decide

/-! ## The functions (sections 2.1, 2.2, 2.3, 2.4, 2.7) -/

theorem test_charval :
    charval 0x2F = none ∧ charval 0x31 = none ∧ charval 0x32 = some 26 ∧ charval 0x37 = some 31 ∧ charval 0x38 = none ∧
      charval 0x40 = none ∧ charval 0x41 = some 0 ∧ charval 0x5A = some 25 ∧ charval 0x5B = none ∧ charval 0x60 = none ∧
      charval 0x61 = some 0 ∧ charval 0x7A = some 25 ∧ charval 0x7B = none ∧ charval 0xFF = none := by decide +kernel

/-- `66 6F` is `MZXQ`, `FF` is `74`, `80` is `QA`, `DE AD BE EF` is `32W353Y`. -/
theorem test_b32enc_function :
    b32enc [0x66, 0x6F] = [0x4D, 0x5A, 0x58, 0x51] ∧ b32enc [0xFF] = [0x37, 0x34] ∧ b32enc [0x80] = [0x51, 0x41] ∧
      b32enc [0xDE, 0xAD, 0xBE, 0xEF] = [0x33, 0x32, 0x57, 0x33, 0x35, 0x33, 0x59] ∧ b32enc [] = [] := by decide +kernel

/-- `mzxw6` and `M=Z X` decode with case ignored and bytes skipped; one character decodes to nothing. -/
theorem test_b32dec_function :
    b32dec [0x6D, 0x7A, 0x78, 0x77, 0x36] = [0x66, 0x6F, 0x6F] ∧ b32dec [0x4D, 0x3D, 0x5A, 0x20, 0x58, 0x51] = [0x66, 0x6F] ∧
      b32dec [0x41] = [] ∧ b32dec [0x30, 0x31, 0x38, 0x39, 0x3D] = [] := by decide +kernel

theorem test_ctrbytes :
    ctrBytes 0x0123456789ABCDEF = [0x01, 0x23, 0x45, 0x67, 0x89, 0xAB, 0xCD, 0xEF] ∧
      ctrBytes 0x100 = [0, 0, 0, 0, 0, 0, 1, 0] := by decide +kernel

/-- Rows `off15` and `rfc`, and the rendering of 42 and of 999999 in 7 digits. -/
theorem test_truncation :
    dtValue off15 = 0x12345678 ∧ dtOffset rfcDigest = 10 ∧ dtValue rfcDigest = 0x50EF7F19 ∧
      dtCode 0x50EF7F19 6 = 872921 ∧ dtCode 0x7FFFFFFF 10 = 0x7FFFFFFF ∧
      render 42 6 = [0x30, 0x30, 0x30, 0x30, 0x34, 0x32] ∧
      render 999999 7 = [0x30, 0x39, 0x39, 0x39, 0x39, 0x39, 0x39] := by decide +kernel

/-! ## The commands, one step each -/

/-- R112's example: `ILEN` = 3, 66 6F 6F gives `MZXW6`. -/
theorem test_b32enc :
    (after (exec .b32enc (staged 1 [0x66, 0x6F, 0x6F]))).obuf = [(0, 0x4D), (1, 0x5A), (2, 0x58), (3, 0x57), (4, 0x36)] ∧
      (after (exec .b32enc (staged 1 [0x66, 0x6F, 0x6F]))).olen = 5 := by decide +kernel

/-- Section 2.2: `ILEN` = 257 ends with `ERR` = 8 and the old result in place. -/
theorem test_b32enc_bad_length :
    (after (exec .b32enc { staged 1 [] with ilen := 257, olen := 9 })).err = 8 ∧
      (after (exec .b32enc { staged 1 [] with ilen := 257, olen := 9 })).olen = 9 := by decide +kernel

/-- R115: `MY` to KBUF is 66, OBUF and `OLEN` kept. -/
theorem test_b32dec :
    (after (exec (.b32dec .kbuf) { staged 0x1002 [0x4D, 0x59] with olen := 3 })).kbuf = [(0, 0x66)] ∧
      (after (exec (.b32dec .kbuf) { staged 0x1002 [0x4D, 0x59] with olen := 3 })).klen = 1 ∧
      (after (exec (.b32dec .kbuf) { staged 0x1002 [0x4D, 0x59] with olen := 3 })).olen = 3 := by decide +kernel

/-- Section 2.5, rows 2 and 3. -/
theorem test_hmac_request :
    (after (exec (.hmac (.known .sha256) .ibuf)
        { staged 0x13 [0x61, 0x62, 0x63] with kbuf := Memory.ofBytes [0x4A, 0x65, 0x66, 0x65], klen := 4 })).chan =
        .req ⟨.sha256, [0x4A, 0x65, 0x66, 0x65], [0x61, 0x62, 0x63]⟩ ∧
      (after (exec (.hmac (.known .sha512) .ctr) { staged 0x1023 [] with ctr := 1, ilen := 300 })).chan =
        .req ⟨.sha512, [], [0, 0, 0, 0, 0, 0, 0, 1]⟩ := by decide +kernel

/-- Section 2.6, row `ok(10, ..)`: the length is stored as it is; bytes 10 and up are unspecified. -/
theorem test_hmac_answer :
    (after (exec (.hmac (.known .sha1) .ibuf) (waiting 3 (.resp (answer 10 [1, 2, 3, 4, 5, 6, 7, 8, 9, 10, 11]))))).dbuf =
        Memory.ofBytes [1, 2, 3, 4, 5, 6, 7, 8, 9, 10] ∧
      (after (exec (.hmac (.known .sha1) .ibuf) (waiting 3 (.resp (answer 65 []))))).err = 6 ∧
      (after (exec (.hmac (.known .sha1) .ibuf) (waiting 3 (.resp .unavailable)))).err = 5 := by decide +kernel

/-- R153's example. -/
theorem test_dtrunc :
    (after (exec (.dtrunc 6) (stagedDigest 0x604 rfcDigest))).value = 0x50EF7F19 ∧
      (after (exec (.dtrunc 6) (stagedDigest 0x604 rfcDigest))).code = 872921 ∧
      (after (exec (.dtrunc 6) (stagedDigest 0x604 rfcDigest))).obuf = Memory.ofBytes [0x38, 0x37, 0x32, 0x39, 0x32, 0x31] := by
  decide +kernel

/-- Section 2.8: 19 bytes clear the old result, 65 keep it, a bad digit count wins over a bad length. -/
theorem test_dtrunc_errors :
    (after (exec (.dtrunc 6) { stagedDigest 0x604 off15 with dlen := 19, value := 7 })).err = 6 ∧
      (after (exec (.dtrunc 6) { stagedDigest 0x604 off15 with dlen := 19, value := 7 })).value = 0 ∧
      (after (exec (.dtrunc 6) { stagedDigest 0x604 off15 with dlen := 65, value := 7 })).err = 8 ∧
      (after (exec (.dtrunc 6) { stagedDigest 0x604 off15 with dlen := 65, value := 7 })).value = 7 ∧
      (after (exec (.dtrunc 5) { stagedDigest 0x504 off15 with dlen := 100 })).err = 3 := by decide +kernel

/-- Section 2.9, errors: one character, a bad digit count and a bad length, and `MY` sends its request. -/
theorem test_hotp_send :
    (after (exec (.hotp (.known .sha1) 6) (staged 0x605 [0x41]))).err = 1 ∧
      (after (exec (.hotp (.unsupported 3) 5) { staged 0x535 [] with ilen := 300 })).err = 2 ∧
      (after (exec (.hotp (.known .sha1) 5) { staged 0x505 [] with ilen := 300 })).err = 3 ∧
      (after (exec (.hotp (.known .sha1) 6) (staged 0x605 [0x4D, 0x59]))).chan = .req myRequest := by decide +kernel

/-- Section 2.9: `HOTP SHA512, 6` takes a 20-byte answer; a 10-byte one keeps the digest and leaves no code. -/
theorem test_hotp_take :
    (after (exec (.hotp (.known .sha512) 6) (waiting 0x625 (.resp (answer 20 rfcDigest))))).code = 872921 ∧
      (after (exec (.hotp (.known .sha512) 6) (waiting 0x625 (.resp (answer 10 [1, 2]))))).err = 6 ∧
      (after (exec (.hotp (.known .sha512) 6) (waiting 0x625 (.resp (answer 10 [1, 2]))))).dlen = 10 ∧
      (after (exec (.hotp (.known .sha512) 6) (waiting 0x625 (.resp (answer 10 [1, 2]))))).olen = 0 := by decide +kernel

/-! ## The host port (sections 2.11, 2.12) and reset -/

/-- `RD STATUS` gives 0x56 with `OVR`, `DONE`, `ERR` = 5; after `WR STATUS, 6` it gives 0x50. -/
theorem test_status :
    (after (step (idleWith [.read 0x004]))).response = some (.data 0x56) ∧
      (after (step (after (step (idleWith [.write 0x004 6, .read 0x004]))))).response = some (.data 0x50) := by decide +kernel

/-- `RD OBUF` after `rfc`, `DTRUNC 10`: the first word is `1357`, byte 0 on lane 0. -/
theorem test_read_lanes :
    (after (step { State.reset with obuf := Memory.ofBytes [0x31, 0x33, 0x35, 0x37], schedule := [.read 0x200] })).response =
      some (.data 0x37353331) := by decide +kernel

/-- `WR KBUF+252, 0x11223344` sets the last four bytes of KBUF, lane 0 lowest. -/
theorem test_write_lanes :
    (after (step { State.reset with schedule := [.write 0x4FC 0x11223344] })).kbuf =
      [(252, 0x44), (253, 0x33), (254, 0x22), (255, 0x11)] := by decide +kernel

/-- The edges of the map: misaligned, reserved, read only; the last mapped word is read. -/
theorem test_host_faults :
    hostCheck .read 0x001 = none ∧ hostCheck .read 0x00C = none ∧ hostCheck .read 0x030 = none ∧
      hostCheck .read 0x540 = none ∧ hostCheck .read 0xFFC = none ∧ hostCheck .write 0x200 = none ∧
      hostCheck .write 0x3FC = none ∧ hostCheck .write 0x014 = none ∧ hostCheck .write 0x028 = none ∧
      hostCheck .read 0x53C = some (.dbuf 15) ∧ hostCheck .read 0x3FC = some (.obuf 127) := by decide +kernel

/-- While busy: `STATUS` reads 1, or 5 with `OVR`; a write is dropped and sets `OVR`. -/
theorem test_busy :
    (after (step (asked 3 [.read 0x004]))).response = some (.data 1) ∧
      (after (step (after (step (asked 3 [.write 0x010 5, .read 0x004]))))).response = some (.data 5) ∧
      (after (step (asked 3 [.write 0x010 5]))).ilen = 0 := by decide +kernel

/-- Section 2.13: reset drops the request, and a late answer finds none. -/
theorem test_reset_drops_the_request :
    (after (step (after (step (asked 3 [.reset, .core .unavailable]))))).chan = .idle ∧
      (after (step (asked 3 [.reset]))).phase = .idle ∧ (after (step (asked 3 [.reset]))).done = false := by decide +kernel

/-- `irq` is `IE` and `DONE`, a level. -/
theorem test_irq :
    (idleWith []).irq = false ∧ (after (step (idleWith [.write 0x008 1]))).irq = true ∧
      (after (step { idleWith [.write 0x004 2] with ie := true })).irq = false := by decide +kernel

/-- R102: the words of `PUT IBUF, 47 45 5A 44 47`. -/
theorem test_script_put :
    scriptPut .ibuf [0x47, 0x45, 0x5A, 0x44, 0x47] = [.write 0x100 0x445A4547, .write 0x104 0x00000047] := by decide +kernel

/-! ## Witnesses: the hypotheses of each obligation, met together, at the boundary values of each clause -/

theorem witness_DecodeOfEncode : (Instr.hotp (.unsupported 15) 15).wellFormed = true := by decide

theorem witness_EncodeOfDecode : decode 0x00000FF5 = .ok (.hotp (.unsupported 15) 15) := by decide +kernel

theorem witness_WordCounts : 8192 ≤ (8192 : Word).toNat := by decide

/-- In order: each of the four clauses. -/
theorem witness_StepRunsTheLatchedCommand :
    ((staged 1 []).schedule = [] ∧ (staged 1 []).phase = .exec ∧ decode (staged 1 []).cmdw = .ok .b32enc) ∧
      ({ staged 1 [] with schedule := [.sequencer, .reset] }.schedule = .sequencer :: [.reset] ∧
        { staged 1 [] with schedule := [.sequencer, .reset] }.phase = .exec ∧
        decode { staged 1 [] with schedule := [.sequencer, .reset] }.cmdw = .ok .b32enc) ∧
      ((staged 0 []).schedule = [] ∧ (staged 0 []).phase = .exec ∧ decode (staged 0 []).cmdw = .error .noCommand) ∧
      ((asked 0x1003 []).schedule = [] ∧ (asked 0x1003 []).phase = .wait ∧
        waitingInstr (asked 0x1003 []).cmdw = some (.hmac (.known .sha1) .ctr)) := by decide +kernel

/-- A pre-check that fails on the smallest length too large, and one that passes on the largest. -/
theorem witness_PreCheckAsWritten :
    ({ staged 1 [] with ilen := 257 }.phase = .exec ∧ { staged 1 [] with ilen := 257 }.schedule = [] ∧
        preCheckR97 1 257 0 0 = .badLength) ∧
      ({ staged 1 [] with ilen := 256 }.phase = .exec ∧ { staged 1 [] with ilen := 256 }.schedule = [] ∧
        preCheckR97 1 256 0 0 = .none) := by decide +kernel

/-- One state per row of R98's table. -/
theorem witness_OnlyDestinationsChange :
    (∃ t, exec .b32enc (staged 1 [0x66]) = .next t) ∧ (∃ t, exec (.b32dec .obuf) (staged 2 [0x4D, 0x59]) = .next t) ∧
      (∃ t, exec (.b32dec .kbuf) (staged 0x1002 [0x4D, 0x59]) = .next t) ∧
      (∃ t, exec (.hmac (.known .sha1) .ibuf) (staged 3 [0x66]) = .next t) ∧
      (∃ t, exec (.dtrunc 6) (stagedDigest 0x604 rfcDigest) = .next t) ∧
      (∃ t, exec (.hotp (.known .sha1) 6) (staged 0x605 [0x4D, 0x59]) = .next t) :=
  ⟨⟨_, rfl⟩, ⟨_, rfl⟩, ⟨_, rfl⟩, ⟨_, rfl⟩, ⟨_, rfl⟩, ⟨_, rfl⟩⟩

/-- Two buffers that agree below the length and differ at it, for each clause. -/
theorem witness_BytesBeyondTheLengthUnread :
    ((∀ j < (staged 1 [0x66]).ilen.toNat,
        Memory.byteAt [(0, 0x66), (1, 0xFF)] j = (staged 1 [0x66]).ibuf.byteAt j) ∧
        (Memory.byteAt [(0, 0x66), (1, 0xFF)] 1 ≠ (staged 1 [0x66]).ibuf.byteAt 1)) ∧
      (∀ j < { staged 3 [] with kbuf := [(0, 0x66)], klen := 1 }.klen.toNat,
        Memory.byteAt [(0, 0x66), (1, 0xFF)] j = { staged 3 [] with kbuf := [(0, 0x66)], klen := 1 }.kbuf.byteAt j) ∧
      (∀ j < (stagedDigest 0x604 rfcDigest).dlen.toNat,
        (Memory.ofBytes (rfcDigest ++ [0xFF])).byteAt j = (stagedDigest 0x604 rfcDigest).dbuf.byteAt j) := by
  decide +kernel

theorem witness_BytesBeyondTheLengthUnread_runs :
    (∃ t, exec .b32enc (staged 1 [0x66]) = .next t) ∧
      (∃ t, exec (.hmac (.known .sha1) .ibuf) { staged 3 [] with kbuf := [(0, 0x66)], klen := 1 } = .next t) ∧
      (∃ t, exec (.dtrunc 6) (stagedDigest 0x604 rfcDigest) = .next t) := ⟨⟨_, rfl⟩, ⟨_, rfl⟩, ⟨_, rfl⟩⟩

/-- The last byte each length lets in. -/
theorem witness_ReadsTheDefinedBytes :
    ((staged 1 [0x66, 0x6F]).ibuf.byteAt 1 = some 0x6F ∧ 1 < (staged 1 [0x66, 0x6F]).ilen.toNat) ∧
      ({ staged 3 [] with kbuf := [(255, 0x66)], klen := 256 }.kbuf.byteAt 255 = some 0x66 ∧
        255 < { staged 3 [] with kbuf := [(255, 0x66)], klen := 256 }.klen.toNat) ∧
      ((stagedDigest 0x604 rfcDigest).dbuf.byteAt 19 = some 0x5A ∧ 19 < (stagedDigest 0x604 rfcDigest).dlen.toNat) := by
  decide +kernel

theorem witness_CharvalInvertsSym : 31 < 32 ∧ charval 0x37 = some 31 := by decide +kernel

/-- The last group of one byte, the last byte of two characters. -/
theorem witness_groups : 1 < (8 * [(0xFF : Byte)].length + 4) / 5 ∧
    0 < 5 * ([(0x4D : Byte), 0x59].filterMap charval).length / 8 := by decide +kernel

/-- `M=Y` is `MY`, the encoding of 66, with a byte inserted. -/
theorem witness_Base32RoundTrip :
    [(0x4D : Byte), 0x3D, 0x59].filter (fun c => (charval c).isSome) = b32enc [0x66] := by decide +kernel

theorem witness_Base32Lengths : (List.replicate 256 (0xFF : Byte)).length ≤ 256 := by decide +kernel

/-- `B32ENC` and `B32DEC` at the largest length. -/
theorem witness_B32encEncodes :
    { staged 1 [] with ilen := 256 }.phase = .exec ∧ { staged 1 [] with ilen := 256 }.ilen.toNat ≤ 256 := by decide +kernel

theorem witness_B32decDecodes :
    { staged 2 [] with ilen := 256 }.phase = .exec ∧ { staged 2 [] with ilen := 256 }.ilen.toNat ≤ 256 := by decide +kernel

/-- The largest request, and a counter message with a length out of range that is not read. -/
theorem witness_HmacSendsItsRequest :
    ({ staged 3 [] with ilen := 256, klen := 256 }.phase = .exec ∧
        { staged 3 [] with ilen := 256, klen := 256 }.klen.toNat ≤ 256 ∧
        (MsgSrc.ibuf = .ibuf → { staged 3 [] with ilen := 256, klen := 256 }.ilen.toNat ≤ 256)) ∧
      ({ staged 0x1003 [] with ilen := 300, klen := 256 }.phase = .exec ∧
        { staged 0x1003 [] with ilen := 300, klen := 256 }.klen.toNat ≤ 256 ∧
        (MsgSrc.ctr = .ibuf → { staged 0x1003 [] with ilen := 300, klen := 256 }.ilen.toNat ≤ 256)) := by decide +kernel

/-- The answers at the limits of the clauses of `HmacTakesTheAnswer` and `HotpTakesTheAnswer`: 65 and 127, 64 and 0, 19,
20; the waiting state of each is `waiting` of it, and the digit counts 6 and 10. -/
theorem witness_TakesTheAnswer :
    (waiting 3 (.resp .unavailable)).phase = .wait ∧ (waiting 3 (.resp .unavailable)).chan = .resp .unavailable ∧
      (waiting 3 (.resp (answer 65 []))).chan = .resp (.ok 65 (Vector.ofFn fun i => [].getD i.val 0)) ∧
      64 < (65 : Fin 128).val ∧ 64 < (127 : Fin 128).val ∧ (64 : Fin 128).val ≤ 64 ∧ (0 : Fin 128).val < 20 ∧
      (19 : Fin 128).val < 20 ∧ 20 ≤ (20 : Fin 128).val ∧ 6 ≤ 6 ∧ 10 ≤ 10 := by decide +kernel

/-- An answer of the length `outlen` whose bytes are `hmac`'s, for every request: conforming, whatever `hmac` is. -/
def conformingAnswer (r : Request) : Answer :=
  .ok (match r.alg with | .sha1 => 20 | .sha256 => 32 | .sha512 => 64)
    (Vector.ofFn fun i => Config.hmacByte r.alg r.key r.msg i.val)

theorem witness_Conforming (r : Request) : Conforming r (conformingAnswer r) ∧ conformingAnswer r ≠ .unavailable := by
  refine ⟨⟨?_, ?_⟩, by simp [conformingAnswer]⟩
  · cases r.alg <;> rfl
  · apply List.ext_getElem
    · cases h : r.alg <;> simp [hmac, outlen]
    · intro i h1 h2
      simp [hmac]

/-- The other premises of `ConformingAnswerGivesTheDigest`. -/
theorem witness_ConformingAnswerGivesTheDigest :
    (waiting 3 (.resp (conformingAnswer myRequest))).phase = .wait ∧
      (waiting 3 (.resp (conformingAnswer myRequest))).chan = .resp (conformingAnswer myRequest) ∧ myRequest.alg = .sha1 :=
  ⟨rfl, rfl, rfl⟩

theorem witness_CoreAnswersTheRequest :
    (asked 3 [.core .unavailable]).schedule = .core .unavailable :: [] ∧
      (asked 3 [.core .unavailable]).chan = .req myRequest := by decide +kernel

/-- A poll while the request is outstanding; the core's answer; a reset. -/
theorem witness_OnlyAnswerOrResetEndsTheWait :
    (asked 3 [.read 4]).phase = .wait ∧ (asked 3 [.read 4]).chan = .req myRequest ∧
      (∃ t, step (asked 3 [.read 4]) = .next t) ∧ (∃ t, step (asked 3 [.core .unavailable]) = .next t) ∧
      (∃ t, step (asked 3 [.reset]) = .next t) := ⟨rfl, rfl, ⟨_, rfl⟩, ⟨_, rfl⟩, ⟨_, rfl⟩⟩

theorem witness_AnsweredCommandsComplete :
    (asked 3 [.core .unavailable]).phase = .wait ∧ waitable (asked 3 [.core .unavailable]).cmdw = true ∧
      waitable 0x00000A25 = true ∧ (asked 3 [.core .unavailable]).chan = .req myRequest ∧
      (asked 3 [.core .unavailable]).schedule = [.core .unavailable] := by decide +kernel

/-- Row `off15`: offset 15, the highest index read is 18. -/
theorem witness_TruncationReadsInside :
    20 ≤ off15.length ∧ off15[dtOffset off15]? = some 0x12 ∧ off15[dtOffset off15 + 1]? = some 0x34 ∧
      off15[dtOffset off15 + 2]? = some 0x56 ∧ off15[dtOffset off15 + 3]? = some 0x78 := by decide +kernel

theorem witness_CodeIsTheRemainder :
    (0x7FFFFFFF : Word).toNat < 2 ^ 31 ∧ 6 ≤ 6 ∧ 6 ≤ 10 ∧ 6 ≤ 10 ∧ 10 ≤ 10 := by decide +kernel

theorem witness_RenderSpellsTheNumber : 999999 < 10 ^ 6 ∧ 2147483647 < 10 ^ 10 ∧ 0 < 10 ^ 0 := by decide +kernel

/-- 20 and 64 bytes, 6 and 10 digits. -/
theorem witness_DtruncDerivesTheCode :
    ((stagedDigest 0x604 rfcDigest).phase = .exec ∧ 20 ≤ (stagedDigest 0x604 rfcDigest).dlen.toNat ∧
        (stagedDigest 0x604 rfcDigest).dlen.toNat ≤ 64 ∧ 6 ≤ 6 ∧ 6 ≤ 10) ∧
      ({ stagedDigest 0xA04 [] with dlen := 64 }.phase = .exec ∧ 20 ≤ { stagedDigest 0xA04 [] with dlen := 64 }.dlen.toNat ∧
        { stagedDigest 0xA04 [] with dlen := 64 }.dlen.toNat ≤ 64 ∧ 6 ≤ 10 ∧ 10 ≤ 10) := by decide +kernel

theorem witness_DtruncRejectsShortDigests :
    { stagedDigest 0x604 off15 with dlen := 19 }.phase = .exec ∧
      { stagedDigest 0x604 off15 with dlen := 19 }.dlen.toNat < 20 := by decide +kernel

/-- `MY` decodes to a byte; `A`, one character, to none. -/
theorem witness_Hotp :
    ((staged 0x605 [0x4D, 0x59]).phase = .exec ∧ (staged 0x605 [0x4D, 0x59]).ilen.toNat ≤ 256 ∧
        b32dec (inputBytes (staged 0x605 [0x4D, 0x59])) ≠ []) ∧
      ((staged 0x605 [0x41]).phase = .exec ∧ (staged 0x605 [0x41]).ilen.toNat ≤ 256 ∧
        b32dec (inputBytes (staged 0x605 [0x41])) = []) := by decide +kernel

/-- The idle state `HotpEqualsTheChain` starts from here: the text `MY`. -/
def chainStart : State := { staged 0 [0x4D, 0x59] with phase := .idle }
/-- The states of the two runs, with a 20-byte answer. -/
def hotp1 : State := after (exec (.hotp (.known .sha1) 6) (issue (encode (.hotp (.known .sha1) 6)) chainStart))
def hotp2 : State := after (exec (.hotp (.known .sha1) 6) (coreRespond (answer 20 rfcDigest) hotp1))
def chain1 : State := after (exec (.b32dec .kbuf) (issue (encode (.b32dec .kbuf)) chainStart))
def chain2 : State := after (exec (.hmac (.known .sha1) .ctr) (issue (encode (.hmac (.known .sha1) .ctr)) chain1))
def chain3 : State := after (exec (.hmac (.known .sha1) .ctr) (coreRespond (answer 20 rfcDigest) chain2))
def chain4 : State := after (exec (.dtrunc 6) (issue (encode (.dtrunc 6)) chain3))

theorem witness_HotpEqualsTheChain_ends :
    chainStart.phase = .idle ∧ digitsLegal 6 = true ∧ hotp1.phase = .wait ∧ hotp2.err = 0 ∧ hotp2.code = 872921 ∧
      chain2.phase = .wait ∧ chain4.code = 872921 := by decide +kernel

theorem witness_HotpEqualsTheChain_runs :
    exec (.hotp (.known .sha1) 6) (issue (encode (.hotp (.known .sha1) 6)) chainStart) = .next hotp1 ∧
      exec (.hotp (.known .sha1) 6) (coreRespond (answer 20 rfcDigest) hotp1) = .next hotp2 ∧
      exec (.b32dec .kbuf) (issue (encode (.b32dec .kbuf)) chainStart) = .next chain1 ∧
      exec (.hmac (.known .sha1) .ctr) (issue (encode (.hmac (.known .sha1) .ctr)) chain1) = .next chain2 ∧
      exec (.hmac (.known .sha1) .ctr) (coreRespond (answer 20 rfcDigest) chain2) = .next chain3 ∧
      exec (.dtrunc 6) (issue (encode (.dtrunc 6)) chain3) = .next chain4 := by
  refine ⟨?_, ?_, ?_, ?_, ?_, ?_⟩ <;> rfl

theorem witness_WaitingCommandsHold : (asked 3 []).phase = .wait ∧ (asked 3 []).chan = .req myRequest := by decide +kernel

/-- Accesses on both sides of each limit of the map: the last unmapped and the first mapped word, a misaligned address, the
last read-only and the first writable word. -/
theorem witness_BadAccessesFault :
    (idleWith [.read 0x0FC]).schedule = .read 0x0FC :: [] ∧ faultsR63 .read 0x0FC = true ∧ faultsR63 .read 0x100 = false ∧
      faultsR63 .read 0x53C = false ∧ faultsR63 .read 0x540 = true ∧ faultsR63 .read 0x102 = true ∧
      faultsR63 .read 0x00C = true ∧ faultsR63 .read 0x010 = false ∧
      (idleWith [.write 0x3FC 0]).schedule = .write 0x3FC 0 :: [] ∧ faultsR63 .write 0x3FC = true ∧
      faultsR63 .write 0x400 = false ∧ faultsR63 .write 0x1FC = false ∧ faultsR63 .write 0x014 = true ∧
      faultsR63 .write 0x018 = false ∧ faultsR63 .write 0x02C = true ∧ faultsR63 .write 0x024 = false := by decide +kernel

theorem witness_CmdWriteIssues :
    (idleWith [.write 0x000 0xFFFFFFFF]).phase = .idle ∧
      (idleWith [.write 0x000 0xFFFFFFFF]).schedule = .write 0x000 0xFFFFFFFF :: [] ∧
      decode 0xFFFFFFFF = .error .reservedBits := by decide +kernel

theorem witness_StatusWriteAcknowledges :
    (idleWith [.write 0x004 6]).phase = .idle ∧ (idleWith [.write 0x004 6]).schedule = .write 0x004 6 :: [] := by
  decide +kernel

theorem witness_BusyWritesAreDropped :
    (asked 3 [.write 0x000 1]).phase ≠ .idle ∧ (asked 3 [.write 0x000 1]).schedule = .write 0x000 1 :: [] ∧
      faultsR63 .write 0x000 = false ∧ faultsR63 .write 0x53C = false := by decide +kernel

/-- The first and the last word of each buffer the host writes, and the registers of the other clauses. -/
theorem witness_IdleWritesSetTheWord :
    (idleWith [.write 0x008 1]).phase = .idle ∧ (idleWith [.write 0x008 1]).schedule = .write 0x008 1 :: [] ∧
      (0x100 : Addr).toNat = 0x100 + 4 * 0 ∧ (0x1FC : Addr).toNat = 0x100 + 4 * 63 ∧ 63 < 64 ∧
      (0x400 : Addr).toNat = 0x400 + 4 * 0 ∧ (0x4FC : Addr).toNat = 0x400 + 4 * 63 ∧
      (0x500 : Addr).toNat = 0x500 + 4 * 0 ∧ (0x53C : Addr).toNat = 0x500 + 4 * 15 ∧ 15 < 16 := by decide +kernel

/-- Every clause's address is readable; the last byte of the last word of each buffer. -/
theorem witness_IdleReadsReturnTheWord :
    (idleWith [.read 0x3FC]).phase = .idle ∧ (idleWith [.read 0x3FC]).schedule = .read 0x3FC :: [] ∧
      ([0x000, 0x004, 0x008, 0x010, 0x014, 0x018, 0x01C, 0x020, 0x024, 0x028, 0x02C, 0x100, 0x1FC, 0x200, 0x3FC, 0x400, 0x4FC,
          0x500, 0x53C].all fun a => !faultsR63 .read a) = true ∧
      Memory.byteAt [(511, 0x37)] (4 * 127 + 3) = some 0x37 ∧ (0x3FC : Addr).toNat = 0x200 + 4 * 127 := by decide +kernel

theorem witness_BusyReadsShowStatusOnly :
    (asked 3 [.read 0x004]).phase ≠ .idle ∧ (asked 3 [.read 0x004]).schedule = .read 0x004 :: [] ∧
      faultsR63 .read 0x004 = false ∧ faultsR63 .read 0x53C = false := by decide +kernel

theorem witness_WritesAreIdempotent : BuffersWf (asked 3 []) ∧ (0xFFF : Addr) ≠ 0x000 ∧ (0x004 : Addr) ≠ 0x000 :=
  ⟨⟨rfl, rfl, rfl, rfl⟩, by decide, by decide⟩

/-- Five bytes: a whole word and one more. -/
theorem witness_PutFillsTheBuffer :
    (idleWith (scriptPut .ibuf [1, 2, 3, 4, 5] ++ [.reset])).phase = .idle ∧ [(1 : Byte), 2, 3, 4, 5].length ≤ 256 ∧
      (idleWith (scriptPut .ibuf [1, 2, 3, 4, 5] ++ [.reset])).schedule = scriptPut .ibuf [1, 2, 3, 4, 5] ++ [.reset] := by
  decide +kernel

/-- A step that ends `HMAC` from `WAIT`, and one that ends `DTRUNC` from `EXEC`. -/
theorem witness_CommandsEndWithTheirCodes :
    (waiting 3 (.resp .unavailable)).phase ≠ .idle ∧
      (∃ t, exec (.hmac (.known .sha1) .ibuf) (waiting 3 (.resp .unavailable)) = .next t ∧ t.phase = .idle) ∧
      (∃ t, exec (.dtrunc 6) (stagedDigest 0x604 off15) = .next t ∧ t.phase = .idle) :=
  ⟨by decide, ⟨_, rfl, rfl⟩, ⟨_, rfl, rfl⟩⟩

/-- Codes 2, 3 and 8 from the pre-check; code 6 from `DTRUNC`; codes 5 and 6 from `HOTP`. -/
theorem witness_ErrorsLeaveNoResult :
    ((after (exec (.hotp (.unsupported 3) 6) (staged 0x635 []))).err = 2 ∧
        (after (exec (.dtrunc 5) (stagedDigest 0x504 off15))).err = 3 ∧
        (after (exec .b32enc { staged 1 [] with ilen := 257 })).err = 8) ∧
      ((after (exec (.dtrunc 6) { stagedDigest 0x604 [] with dlen := 19 })).err = 6 ∧
        (after (exec (.dtrunc 6) { stagedDigest 0x604 [] with dlen := 19 })).phase = .idle) ∧
      ((after (exec (.hotp (.known .sha1) 6) (staged 0x605 [0x4D, 0x59]))).phase = .wait ∧
        (after (exec (.hotp (.known .sha1) 6)
          (coreRespond .unavailable (after (exec (.hotp (.known .sha1) 6) (staged 0x605 [0x4D, 0x59])))))).err = 5 ∧
        (after (exec (.hotp (.known .sha1) 6)
          (coreRespond (answer 19 []) (after (exec (.hotp (.known .sha1) 6) (staged 0x605 [0x4D, 0x59])))))).err = 6) := by
  decide +kernel

/-- The core answers `HMAC` with `unavailable`, and with 65 bytes; then `DTRUNC 6`. -/
theorem witness_NoOldDigestIsTruncated :
    (after (exec (.hmac (.known .sha1) .ctr) (stagedDigest 0x1003 rfcDigest))).phase = .wait ∧ digitsLegal 6 = true ∧
      (after (exec (.hmac (.known .sha1) .ctr)
        (coreRespond .unavailable (after (exec (.hmac (.known .sha1) .ctr) (stagedDigest 0x1003 rfcDigest)))))).err ≠ 0 ∧
      (after (exec (.hmac (.known .sha1) .ctr)
        (coreRespond (answer 65 []) (after (exec (.hmac (.known .sha1) .ctr) (stagedDigest 0x1003 rfcDigest)))))).err ≠ 0 := by
  decide +kernel

/-- Each of the five transitions of R22 is made by some step. -/
theorem witness_PhaseTransitions :
    (after (step (idleWith [.write 0x000 1]))).phase = .exec ∧ (after (step (staged 1 []))).phase = .idle ∧
      (after (step (staged 3 []))).phase = .wait ∧ (after (step (waiting 3 (.resp .unavailable)))).phase = .idle ∧
      (after (step (asked 3 [.reset]))).phase = .idle := by decide +kernel

/-- `DONE` and `OVR` set and cleared, each in every way the clauses list. -/
theorem witness_FlagsChangeOnlyAsListed :
    ((staged 1 []).done = false ∧ (after (step (staged 1 []))).done = true) ∧
      ((idleWith []).done = true ∧ (after (step (idleWith [.write 0x000 1]))).done = false ∧
        (after (step (idleWith [.write 0x004 2]))).done = false ∧ (after (step (idleWith [.reset]))).done = false) ∧
      ((asked 3 []).ovr = false ∧ (after (step (asked 3 [.write 0x008 1]))).ovr = true) ∧
      ((idleWith []).ovr = true ∧ (after (step (idleWith [.write 0x004 4]))).ovr = false ∧
        (after (step (idleWith [.reset]))).ovr = false) ∧
      ((after (step (staged 0 []))).err ≠ (staged 0 []).err ∧
        (after (step (idleWith [.write 0x000 1]))).err ≠ (idleWith []).err ∧
        (after (step (idleWith [.reset]))).err ≠ (idleWith []).err) := by decide +kernel

theorem witness_CounterIsTheHosts :
    (after (step (idleWith [.write 0x020 5]))).ctr ≠ (idleWith [.write 0x020 5]).ctr ∧
      (after (step (idleWith [.write 0x024 5]))).ctr ≠ (idleWith [.write 0x024 5]).ctr ∧
      (after (step { idleWith [.reset] with ctr := 9 })).ctr ≠ 9 := by decide +kernel

theorem witness_ResetGivesTheResetState : (asked 3 [.reset]).schedule = .reset :: [] := by decide +kernel

/-- A legal command of each row, the ends of the digit range among them. -/
theorem witness_CommandsStraightAfterReset :
    Instr.b32enc.legal = true ∧ (Instr.b32dec .kbuf).legal = true ∧ (Instr.hmac (.known .sha512) .ibuf).legal = true ∧
      (Instr.dtrunc 6).legal = true ∧ (Instr.hotp (.known .sha1) 10).legal = true := by decide

/-- A state with a request outstanding meets both invariants, and a step is taken from it. -/
theorem witness_invariants :
    StateInv (asked 3 [.core (answer 20 rfcDigest)]) ∧ BuffersWf (stagedDigest 0x604 rfcDigest) ∧
      (∃ t, step (asked 3 [.core (answer 20 rfcDigest)]) = .next t) ∧
      (∃ t, step (stagedDigest 0x604 rfcDigest) = .next t) :=
  ⟨⟨by decide +kernel, by decide +kernel, by decide +kernel, by decide +kernel, by decide +kernel, by decide +kernel,
    by decide +kernel, by decide +kernel⟩, ⟨rfl, rfl, by decide +kernel, by decide +kernel⟩, ⟨_, rfl⟩, ⟨_, rfl⟩⟩

end Sys2Proof.Tests
end

section
/-! PROOFS. What the bodies of the commands can do, once per body: the second layer of case lemmas under the `exec…_cases`
of Sys2Proof/Laws/Meanings.lean. -/

namespace Sys2Proof.Machine

/-- `DTRUNC` past its pre-check (R153): a digest below 20 bytes ends in `InternalInvariant`, any other is truncated. -/
theorem dtruncBody_cases (digits : Nat) (s : State) :
    (s.dlen.toNat < 20 ∧
        dtruncBody digits s = complete .internalInvariant (clearDest (.dtrunc digits) s)) ∨
      (20 ≤ s.dlen.toNat ∧
        dtruncBody digits s = complete .none (deriveCode (digestBytes (clearDest (.dtrunc digits) s)) digits
          (spend s.dlen.toNat (clearDest (.dtrunc digits) s)))) := by
  by_cases h : s.dlen.toNat < 20
  · exact .inl ⟨h, if_pos h⟩
  · exact .inr ⟨Nat.le_of_not_lt h, if_neg h⟩

@[simp] theorem deriveCode_chan (d : List Byte) (digits : Nat) (s : State) : (deriveCode d digits s).chan = s.chan := by
  simp [deriveCode]

/-- Stage 2 of `HMAC` (R137, R139): it waits, or it takes the answer off the channel and stores it. -/
theorem hmacTake_cases (s : State) :
    ((∀ x, s.chan ≠ .resp x) ∧ hmacTake s = s) ∨
      (∃ x, s.chan = .resp x ∧ hmacTake s = hmacStore x (consumeAnswer s)) := by
  unfold hmacTake
  split
  · next x hx => exact .inr ⟨x, hx, rfl⟩
  · next hx => exact .inl ⟨hx, rfl⟩

/-- How `HMAC` ends on the answer `x` (R137): `unavailable`, an answer longer than DBUF, or a digest stored. -/
theorem hmacStore_cases (x : Answer) (s : State) :
    (x = .unavailable ∧ hmacStore x s = complete .digestUnavailable s) ∨
      (∃ dlen d, x = .ok dlen d ∧ 64 < dlen.val ∧ hmacStore x s = complete .internalInvariant s) ∨
      (∃ dlen d, x = .ok dlen d ∧ dlen.val ≤ 64 ∧
        hmacStore x s = complete .none (writeDbuf (d.toList.take dlen.val) s)) := by
  cases x with
  | unavailable => exact .inl ⟨rfl, rfl⟩
  | ok dlen d =>
    by_cases h : 64 < dlen.val
    · exact .inr (.inl ⟨dlen, d, rfl, h, if_pos h⟩)
    · exact .inr (.inr ⟨dlen, d, rfl, Nat.le_of_not_lt h, if_neg h⟩)

@[simp] theorem clearDest_ctr (i : Instr) (s : State) : (clearDest i s).ctr = s.ctr := by
  cases i with
  | b32dec dest => cases dest <;> rfl
  | _ => rfl

/-- Stage 1 of `HOTP` past its pre-check (R166): the decoded secret goes to KBUF; an empty one ends in `InvalidSecret`,
any other is sent with the counter. -/
theorem hotpSend_cases (alg : Alg) (digits : Nat) (s : State) :
    ∃ key u, key = b32dec (inputBytes s) ∧
      u = writeKbuf key (spend s.ilen.toNat (clearDest (.hotp (.known alg) digits) s)) ∧
      (hotpSend alg digits s = complete .invalidSecret u ∨
        hotpSend alg digits s = sendRequest ⟨alg, key, ctrBytes s.ctr⟩ u) := by
  refine ⟨_, _, rfl, rfl, ?_⟩
  by_cases h : (b32dec (inputBytes s)).length = 0
  · exact .inl (by simp only [hotpSend, inputBytes_clearDest, clearDest_ilen, if_pos h])
  · exact .inr (by simp only [hotpSend, inputBytes_clearDest, clearDest_ilen, writeKbuf_ctr, spend_ctr, clearDest_ctr,
      if_neg h])

/-- Stage 2 of `HOTP` (R167, R139): it waits, or it takes the answer off the channel and derives the code. -/
theorem hotpTake_cases (digits : Nat) (s : State) :
    ((∀ x, s.chan ≠ .resp x) ∧ hotpTake digits s = s) ∨
      (∃ x, s.chan = .resp x ∧ hotpTake digits s = hotpDerive digits x (consumeAnswer s)) := by
  unfold hotpTake
  split
  · next x hx => exact .inr ⟨x, hx, rfl⟩
  · next hx => exact .inl ⟨hx, rfl⟩

/-- How `HOTP` ends on the answer `x` (R167): `unavailable`, an answer longer than DBUF, a digest stored and too short to
truncate, or a digest stored and its code derived. -/
theorem hotpDerive_cases (digits : Nat) (x : Answer) (s : State) :
    (x = .unavailable ∧ hotpDerive digits x s = complete .digestUnavailable s) ∨
      (∃ dlen d, x = .ok dlen d ∧ 64 < dlen.val ∧ hotpDerive digits x s = complete .internalInvariant s) ∨
      (∃ dlen d, x = .ok dlen d ∧ dlen.val < 20 ∧
        hotpDerive digits x s = complete .internalInvariant (writeDbuf (d.toList.take dlen.val) s)) ∨
      (∃ dlen d, x = .ok dlen d ∧ 20 ≤ dlen.val ∧ dlen.val ≤ 64 ∧
        hotpDerive digits x s = complete .none
          (deriveCode (d.toList.take dlen.val) digits (writeDbuf (d.toList.take dlen.val) s))) := by
  cases x with
  | unavailable => exact .inl ⟨rfl, rfl⟩
  | ok dlen d =>
    by_cases hlong : 64 < dlen.val
    · exact .inr (.inl ⟨dlen, d, rfl, hlong, if_pos hlong⟩)
    · by_cases hshort : dlen.val < 20
      · exact .inr (.inr (.inl ⟨dlen, d, rfl, hshort, (if_neg hlong).trans (if_pos hshort)⟩))
      · exact .inr (.inr (.inr ⟨dlen, d, rfl, Nat.le_of_not_lt hshort, Nat.le_of_not_lt hlong,
          (if_neg hlong).trans (if_neg hshort)⟩))

/-- The core's move where no request is outstanding is used up without effect (log entry 2). -/
theorem coreRespond_of_chan_idle {s : State} (h : s.chan = .idle) (x : Answer) : coreRespond x s = s := by
  rw [coreRespond, h]

/-- A step with a move lined up makes that move and uses it up (log entry 1). -/
theorem step_of_schedule_cons {s : State} {m : Move} {rest : List Move} (h : s.schedule = m :: rest) :
    step s = makeMove m { s with schedule := rest } := by
  rw [step, takeTurn, h]

end Sys2Proof.Machine
end

section
/-! PROOFS. The frame of a command (R28, R98): what no command writes, and what its row of the destination table does not
name. -/

namespace Sys2Proof.Machine

/-! ### No operation of a command's body writes what R28 keeps -/

@[simp] theorem keptByCommands_refl (s : State) : KeptByCommands s s := by simp [KeptByCommands]

@[simp] theorem keptByCommands_complete (e : ErrKind) (s t : State) :
    KeptByCommands s (complete e t) ↔ KeptByCommands s t := Iff.rfl

@[simp] theorem keptByCommands_spend (n : Nat) (s t : State) :
    KeptByCommands s (spend n t) ↔ KeptByCommands s t := Iff.rfl

@[simp] theorem keptByCommands_writeObuf (bs : List Byte) (s t : State) :
    KeptByCommands s (writeObuf bs t) ↔ KeptByCommands s t := Iff.rfl

@[simp] theorem keptByCommands_writeKbuf (bs : List Byte) (s t : State) :
    KeptByCommands s (writeKbuf bs t) ↔ KeptByCommands s t := Iff.rfl

@[simp] theorem keptByCommands_writeDbuf (bs : List Byte) (s t : State) :
    KeptByCommands s (writeDbuf bs t) ↔ KeptByCommands s t := Iff.rfl

@[simp] theorem keptByCommands_writeCode (v c : Word) (s t : State) :
    KeptByCommands s (writeCode v c t) ↔ KeptByCommands s t := Iff.rfl

@[simp] theorem keptByCommands_sendRequest (r : Request) (s t : State) :
    KeptByCommands s (sendRequest r t) ↔ KeptByCommands s t := Iff.rfl

@[simp] theorem keptByCommands_consumeAnswer (s t : State) :
    KeptByCommands s (consumeAnswer t) ↔ KeptByCommands s t := Iff.rfl

@[simp] theorem keptByCommands_clearObuf (s t : State) : KeptByCommands s (clearObuf t) ↔ KeptByCommands s t := Iff.rfl

@[simp] theorem keptByCommands_clearKbuf (s t : State) : KeptByCommands s (clearKbuf t) ↔ KeptByCommands s t := Iff.rfl

@[simp] theorem keptByCommands_clearDbuf (s t : State) : KeptByCommands s (clearDbuf t) ↔ KeptByCommands s t := Iff.rfl

@[simp] theorem keptByCommands_clearCode (s t : State) : KeptByCommands s (clearCode t) ↔ KeptByCommands s t := Iff.rfl

/-! ### Commands by row of the table of R98 -/

theorem b32enc_frame {s t : State} (h : exec .b32enc s = .next t) :
    KeptByCommands s t ∧ t.kbuf = s.kbuf ∧ t.klen = s.klen ∧ t.dbuf = s.dbuf ∧ t.dlen = s.dlen ∧ t.value = s.value ∧
      t.code = s.code := by
  obtain ⟨-, rfl⟩ | rfl := execB32enc_cases h
  · simp [b32encBody]
  · simp

theorem b32dec_obuf_frame {s t : State} (h : exec (.b32dec .obuf) s = .next t) :
    KeptByCommands s t ∧ t.kbuf = s.kbuf ∧ t.klen = s.klen ∧ t.dbuf = s.dbuf ∧ t.dlen = s.dlen ∧ t.value = s.value ∧
      t.code = s.code := by
  obtain ⟨-, rfl⟩ | rfl := execB32dec_cases h
  · simp [b32decBody, writeDecoded]
  · simp

theorem b32dec_kbuf_frame {s t : State} (h : exec (.b32dec .kbuf) s = .next t) :
    KeptByCommands s t ∧ t.obuf = s.obuf ∧ t.olen = s.olen ∧ t.dbuf = s.dbuf ∧ t.dlen = s.dlen ∧ t.value = s.value ∧
      t.code = s.code := by
  obtain ⟨-, rfl⟩ | rfl := execB32dec_cases h
  · simp [b32decBody, writeDecoded]
  · simp

theorem hmac_frame {alg : AlgId} {src : MsgSrc} {s t : State} (h : exec (.hmac alg src) s = .next t) :
    KeptByCommands s t ∧ t.obuf = s.obuf ∧ t.olen = s.olen ∧ t.kbuf = s.kbuf ∧ t.klen = s.klen ∧ t.value = s.value ∧
      t.code = s.code := by
  obtain ⟨-, rfl⟩ | ⟨-, ⟨n, -, rfl⟩ | ⟨a, -, -, -, rfl⟩ | ⟨a, -, rfl⟩⟩ := execHmac_cases h
  · obtain ⟨-, ht⟩ | ⟨x, -, ht⟩ := hmacTake_cases s
    · simp [ht]
    · obtain ⟨-, hx⟩ | ⟨dlen, d, -, -, hx⟩ | ⟨dlen, d, -, -, hx⟩ := hmacStore_cases x (consumeAnswer s) <;> simp [ht, hx]
  · simp
  · simp [hmacSend]
  · simp

theorem dtrunc_frame {digits : Nat} {s t : State} (h : exec (.dtrunc digits) s = .next t) :
    KeptByCommands s t ∧ t.kbuf = s.kbuf ∧ t.klen = s.klen ∧ t.dbuf = s.dbuf ∧ t.dlen = s.dlen := by
  obtain ⟨-, -, -, rfl⟩ | rfl | rfl := execDtrunc_cases h
  · obtain ⟨-, ht⟩ | ⟨-, ht⟩ := dtruncBody_cases digits s <;> simp [ht, deriveCode]
  · simp
  · simp

theorem hotp_keptByCommands {alg : AlgId} {digits : Nat} {s t : State} (h : exec (.hotp alg digits) s = .next t) :
    KeptByCommands s t := by
  obtain ⟨-, rfl⟩ | ⟨-, ⟨n, -, rfl⟩ | ⟨a, -, -, -, -, rfl⟩ | ⟨a, -, rfl | rfl⟩⟩ := execHotp_cases h
  · obtain ⟨-, ht⟩ | ⟨x, -, ht⟩ := hotpTake_cases digits s
    · simp [ht]
    · obtain ⟨-, hx⟩ | ⟨dlen, d, -, -, hx⟩ | ⟨dlen, d, -, -, hx⟩ | ⟨dlen, d, -, -, -, hx⟩ :=
        hotpDerive_cases digits x (consumeAnswer s) <;> simp [ht, hx, deriveCode]
  · simp
  · obtain ⟨key, u, -, rfl, ht | ht⟩ := hotpSend_cases a digits s <;> simp [ht]
  · simp
  · simp

/-- Settles O9: each row of the table of R98 is the frame of its command. -/
theorem onlyDestinationsChange : Obligations.OnlyDestinationsChange := by
  intro i s t h
  cases i with
  | b32enc => exact b32enc_frame h
  | b32dec dest =>
    cases dest with
    | obuf => exact b32dec_obuf_frame h
    | kbuf => exact b32dec_kbuf_frame h
  | hmac alg src => exact hmac_frame h
  | dtrunc digits => exact dtrunc_frame h
  | hotp alg digits => exact ⟨hotp_keptByCommands h, trivial⟩

end Sys2Proof.Machine
end

section
/-! PROOFS. The invariants of reachable states (R31): the rules by which a state comes to meet them, and that every step of
every agent keeps them. -/

namespace Sys2Proof.Machine

/-! ### The results' bounds (R31 (e), (f)) -/

/-- The part of the invariants that speaks of the result registers alone (R31 (e), (f)). -/
def ResultsBounded (s : State) : Prop :=
  s.olen.toNat ≤ 410 ∧ s.value.toNat < 2 ^ 31 ∧ s.code.toNat ≤ s.value.toNat

theorem StateInv.resultsBounded {s : State} (h : StateInv s) : ResultsBounded s := ⟨h.olen_le, h.value_lt, h.code_le⟩

@[simp] theorem resultsBounded_spend (n : Nat) (s : State) : ResultsBounded (spend n s) ↔ ResultsBounded s := Iff.rfl

@[simp] theorem resultsBounded_writeKbuf (bs : List Byte) (s : State) :
    ResultsBounded (writeKbuf bs s) ↔ ResultsBounded s := Iff.rfl

theorem ResultsBounded.writeObuf {s : State} (h : ResultsBounded s) {bs : List Byte} (hbs : bs.length ≤ 410) :
    ResultsBounded (writeObuf bs s) :=
  ⟨by rw [writeObuf_olen, lengthWord_toNat (by omega)]; exact hbs, h.2⟩

/-- `ClearDest` lowers the result registers to 0 or leaves them. -/
theorem ResultsBounded.clearDest {s : State} (h : ResultsBounded s) (i : Instr) : ResultsBounded (clearDest i s) := by
  have hclear : ResultsBounded (clearObuf s) := ⟨by simp, h.2⟩
  have hboth : ResultsBounded (clearCode (clearObuf s)) := by simp [ResultsBounded]
  cases i with
  | b32enc => exact hclear
  | b32dec dest =>
    cases dest with
    | obuf => exact hclear
    | kbuf => exact h
  | hmac alg src => exact h
  | dtrunc digits => exact hboth
  | hotp alg digits => exact hboth

/-- The top bit of a truncated value is cleared (R150). -/
theorem dtValue_lt (d : List Byte) : (dtValue d).toNat < 2 ^ 31 := by
  apply BitVec.toNat_lt_of_msb_false
  simp [dtValue, BitVec.msb_eq_getLsbD_last]

/-- A code is a remainder of its value (R151). -/
theorem dtCode_le (v : Word) (digits : Nat) : (dtCode v digits).toNat ≤ v.toNat := by
  have hle : v.toNat % 10 ^ digits ≤ v.toNat := Nat.mod_le _ _
  rw [dtCode, lengthWord_toNat (by omega)]
  exact hle

theorem resultsBounded_deriveCode (d : List Byte) {digits : Nat} (hdigits : digits ≤ 410) (s : State) :
    ResultsBounded (deriveCode d digits s) := by
  refine ⟨?_, dtValue_lt d, dtCode_le _ _⟩
  simp only [deriveCode, writeObuf_olen, render_length]
  rw [lengthWord_toNat (by omega)]
  exact hdigits

/-! ### How a state comes to meet the invariants -/

theorem channelFits_of_ne_wait {s : State} (hp : s.phase ≠ .wait) : channelFits s = true ↔ s.chan = .idle := by
  unfold channelFits
  cases hphase : s.phase <;> cases hchan : s.chan <;> simp_all

/-- The registers the invariants speak of. -/
def invRegisters (s : State) : Phase × Word × Bool × BitVec 4 × Chan × Word × Word × Word :=
  (s.phase, s.cmdw, s.done, s.err, s.chan, s.olen, s.value, s.code)

/-- The invariants speak of no other register. -/
theorem StateInv.congr {s t : State} (h : StateInv s) (heq : invRegisters t = invRegisters s) : StateInv t := by
  simp only [invRegisters, Prod.mk.injEq] at heq
  obtain ⟨hphase, hcmdw, hdone, herr, hchan, holen, hvalue, hcode⟩ := heq
  have hfits : channelFits t = channelFits s := by simp only [channelFits, hphase, hchan]
  exact
    { done_idle := by simpa only [hdone, hphase] using h.done_idle
      err_idle := by simpa only [herr, hphase] using h.err_idle
      err_writable := by simpa only [herr] using h.err_writable
      channel := hfits.trans h.channel
      waiting := by simpa only [hphase, hcmdw] using h.waiting
      olen_le := by simpa only [holen] using h.olen_le
      value_lt := by simpa only [hvalue] using h.value_lt
      code_le := by simpa only [hcode, hvalue] using h.code_le }

/-- Outside `WAIT` no request is outstanding and no answer stands (R31 (d)). -/
theorem StateInv.chan_idle {s : State} (h : StateInv s) (hp : s.phase ≠ .wait) : s.chan = .idle :=
  (channelFits_of_ne_wait hp).mp h.channel

theorem StateInv.done_of_ne_idle {s : State} (h : StateInv s) (hp : s.phase ≠ .idle) : s.done = false :=
  Bool.eq_false_iff.mpr fun hd => hp (h.done_idle hd)

theorem StateInv.err_of_ne_idle {s : State} (h : StateInv s) (hp : s.phase ≠ .idle) : s.err = 0 :=
  Classical.byContradiction fun he => hp (h.err_idle he)

/-- The code of every error the hardware raises is one it may write (R180); 4 is the one it never raises. -/
theorem writableErr_code {e : ErrKind} (he : e ≠ .randomSourceUnavailable) : writableErr e.code = true := by
  cases e with
  | randomSourceUnavailable => exact absurd rfl he
  | _ => rfl

/-- A completion meets the invariants when the channel is idle and the results are in bounds, whatever came before. -/
theorem stateInv_complete {e : ErrKind} {s : State} (he : e ≠ .randomSourceUnavailable) (hchan : s.chan = .idle)
    (hres : ResultsBounded s) : StateInv (complete e s) where
  done_idle _ := rfl
  err_idle _ := rfl
  err_writable := writableErr_code he
  channel := (channelFits_of_ne_wait (by simp)).mpr hchan
  waiting hp := by simp at hp
  olen_le := hres.1
  value_lt := hres.2.1
  code_le := hres.2.2

/-- A request sent meets the invariants when it fits, for a word that is waited on, the flags as issue left them. -/
theorem stateInv_sendRequest {r : Request} {s : State} (hr : r.fits = true) (hw : waitable s.cmdw = true)
    (hdone : s.done = false) (herr : s.err = 0) (hres : ResultsBounded s) : StateInv (sendRequest r s) where
  done_idle hd := by simp [hdone] at hd
  err_idle he := by simp [herr] at he
  err_writable := by rw [sendRequest_err, herr]; rfl
  channel := hr
  waiting _ := hw
  olen_le := hres.1
  value_lt := hres.2.1
  code_le := hres.2.2

/-- The reset state meets the invariants (R30, R31), whatever moves are lined up. -/
theorem stateInv_resetBlock (s : State) : StateInv (resetBlock s) where
  done_idle _ := rfl
  err_idle _ := rfl
  err_writable := rfl
  channel := rfl
  waiting hp := by simp at hp
  olen_le := by simp
  value_lt := by simp
  code_le := by simp

/-! ### The host's steps -/

theorem StateInv.hostRead {s : State} (h : StateInv s) (a : Addr) : StateInv (hostRead a s) := by
  unfold Machine.hostRead
  split
  · exact h.congr rfl
  · split
    · unfold readBusy
      split <;> exact h.congr rfl
    · exact h.congr rfl

/-- Issue leaves `IDLE`: `DONE` and `ERR` are cleared with it (R68). -/
theorem StateInv.issue {s : State} (h : StateInv s) (hp : s.phase = .idle) (v : Word) : StateInv (issue v s) where
  done_idle hd := by simp at hd
  err_idle he := by simp at he
  err_writable := rfl
  channel := (channelFits_of_ne_wait (by simp)).mpr (h.chan_idle (by simp [hp]))
  waiting hw := by simp at hw
  olen_le := h.olen_le
  value_lt := h.value_lt
  code_le := h.code_le

/-- Acknowledge can only clear `DONE` (R69). -/
theorem StateInv.acknowledge {s : State} (h : StateInv s) (v : Word) : StateInv (acknowledge v s) :=
  { h with done_idle := fun hd => h.done_idle (Bool.and_eq_true_iff.mp hd).1 }

theorem StateInv.writeReg {s : State} (h : StateInv s) (hp : s.phase = .idle) (r : Reg) (v : Word) :
    StateInv (writeReg r v s) := by
  cases r with
  | cmd => exact h.issue hp v
  | status => exact h.acknowledge v
  | _ => exact h.congr rfl

theorem StateInv.hostWrite {s : State} (h : StateInv s) (a : Addr) (v : Word) : StateInv (hostWrite a v s) := by
  unfold Machine.hostWrite
  split
  · exact h.congr rfl
  · next r hr =>
    split
    · exact h.congr rfl
    · next hbusy => exact (h.writeReg (by simpa [State.busy] using hbusy) r v).congr rfl

/-! ### The core's step -/

/-- The core answers only a request, and a request stands only in `WAIT` (R136, R31 (d)). -/
theorem StateInv.coreRespond {s : State} (h : StateInv s) (x : Answer) : StateInv (coreRespond x s) := by
  unfold Machine.coreRespond
  split
  · next r hr =>
    have hp : s.phase = .wait := Classical.byContradiction fun hp => by simp [h.chan_idle hp] at hr
    exact { h with channel := by simp [channelFits, hp] }
  · exact h

/-! ### The sequencer's step from `EXEC` -/

section Exec

variable {s t : State} (h : StateInv s) (hp : s.phase = .exec)
include h hp

/-- A command in `EXEC` that ends before its destinations are touched. -/
theorem stateInv_complete_of_exec {e : ErrKind} (he : e ≠ .randomSourceUnavailable) : StateInv (complete e s) :=
  stateInv_complete he (h.chan_idle (by simp [hp])) h.resultsBounded

theorem stateInv_execB32enc (ht : exec .b32enc s = .next t) : StateInv t := by
  obtain ⟨hilen, rfl⟩ | rfl := execB32enc_cases ht
  · refine stateInv_complete (by decide) (h.chan_idle (by simp [hp])) (ResultsBounded.writeObuf ?_ ?_)
    · exact h.resultsBounded.clearDest .b32enc
    · rw [b32enc_length, inputBytes_clearDest, inputBytes_length]
      omega
  · exact stateInv_complete_of_exec h hp (by decide)

theorem stateInv_execB32dec {dest : DecDest} (ht : exec (.b32dec dest) s = .next t) : StateInv t := by
  obtain ⟨hilen, rfl⟩ | rfl := execB32dec_cases ht
  · have hchan : s.chan = .idle := h.chan_idle (by simp [hp])
    have hres := h.resultsBounded.clearDest (.b32dec dest)
    cases dest with
    | obuf =>
      refine stateInv_complete (by decide) hchan (ResultsBounded.writeObuf hres ?_)
      have hlen := b32dec_length_le (inputBytes s)
      rw [inputBytes_length] at hlen
      rw [inputBytes_clearDest]
      omega
    | kbuf =>
      exact stateInv_complete (by decide) hchan ((resultsBounded_writeKbuf _ _).mpr ((resultsBounded_spend _ _).mpr hres))
  · exact stateInv_complete_of_exec h hp (by decide)

theorem stateInv_execHmac {alg : AlgId} {src : MsgSrc} (hw : decode s.cmdw = .ok (.hmac alg src))
    (ht : exec (.hmac alg src) s = .next t) : StateInv t := by
  obtain ⟨hwait, -⟩ | ⟨-, ⟨n, -, rfl⟩ | ⟨a, rfl, hklen, hilen, rfl⟩ | ⟨a, -, rfl⟩⟩ := execHmac_cases ht
  · simp [hp] at hwait
  · exact stateInv_complete_of_exec h hp (by decide)
  · have hbusy : s.phase ≠ .idle := by simp [hp]
    refine stateInv_sendRequest ?_ (by simp [waitable, hw, AlgId.legal]) (h.done_of_ne_idle hbusy)
      (h.err_of_ne_idle hbusy) (h.resultsBounded.clearDest (.hmac (.known a) src))
    cases src with
    | ibuf => simp [Request.fits, messageBytes, hklen, hilen]
    | ctr => simp [Request.fits, messageBytes, hklen]
  · exact stateInv_complete_of_exec h hp (by decide)

theorem stateInv_execDtrunc {digits : Nat} (ht : exec (.dtrunc digits) s = .next t) : StateInv t := by
  obtain ⟨-, hdigits, -, rfl⟩ | rfl | rfl := execDtrunc_cases ht
  · have hchan : s.chan = .idle := h.chan_idle (by simp [hp])
    obtain ⟨-, hbody⟩ | ⟨-, hbody⟩ := dtruncBody_cases digits s <;> rw [hbody]
    · exact stateInv_complete (by decide) hchan (h.resultsBounded.clearDest _)
    · exact stateInv_complete (by decide) (by simp [hchan]) (resultsBounded_deriveCode _ (by omega) _)
  · exact stateInv_complete_of_exec h hp (by decide)
  · exact stateInv_complete_of_exec h hp (by decide)

theorem stateInv_execHotp {alg : AlgId} {digits : Nat} (hw : decode s.cmdw = .ok (.hotp alg digits))
    (ht : exec (.hotp alg digits) s = .next t) : StateInv t := by
  obtain ⟨hwait, -⟩ | ⟨-, ⟨n, -, rfl⟩ | ⟨a, rfl, hmin, hmax, hilen, rfl⟩ | ⟨a, -, rfl | rfl⟩⟩ := execHotp_cases ht
  · simp [hp] at hwait
  · exact stateInv_complete_of_exec h hp (by decide)
  · have hbusy : s.phase ≠ .idle := by simp [hp]
    obtain ⟨key, u, hkey, rfl, hsend⟩ := hotpSend_cases a digits s
    have hres := (resultsBounded_writeKbuf key _).mpr
      ((resultsBounded_spend s.ilen.toNat _).mpr (h.resultsBounded.clearDest (.hotp (.known a) digits)))
    obtain hsend | hsend := hsend <;> rw [hsend]
    · exact stateInv_complete (by decide) (by simp [h.chan_idle, hp]) hres
    · refine stateInv_sendRequest ?_ (by simp [waitable, hw, AlgId.legal, digitsLegal, hmin, hmax])
        (by simp [h.done_of_ne_idle hbusy]) (by simp [h.err_of_ne_idle hbusy]) hres
      have hlen := b32dec_length_le (inputBytes s)
      rw [inputBytes_length, ← hkey] at hlen
      have hfit : key.length ≤ 256 := by omega
      simp [Request.fits, hfit]
  · exact stateInv_complete_of_exec h hp (by decide)
  · exact stateInv_complete_of_exec h hp (by decide)

/-- The command a word in `EXEC` spells keeps the invariants. -/
theorem stateInv_exec {i : Instr} (hw : decode s.cmdw = .ok i) (ht : exec i s = .next t) : StateInv t := by
  cases i with
  | b32enc => exact stateInv_execB32enc h hp ht
  | b32dec dest => exact stateInv_execB32dec h hp ht
  | hmac alg src => exact stateInv_execHmac h hp hw ht
  | dtrunc digits => exact stateInv_execDtrunc h hp ht
  | hotp alg digits => exact stateInv_execHotp h hp hw ht

end Exec

/-! ### The sequencer's step from `WAIT` -/

theorem StateInv.hmacTake {s : State} (h : StateInv s) : StateInv (hmacTake s) := by
  obtain ⟨-, ht⟩ | ⟨x, -, ht⟩ := hmacTake_cases s <;> rw [ht]
  · exact h
  · obtain ⟨-, hx⟩ | ⟨dlen, d, -, -, hx⟩ | ⟨dlen, d, -, -, hx⟩ := hmacStore_cases x (consumeAnswer s) <;> rw [hx] <;>
      exact stateInv_complete (by decide) rfl h.resultsBounded

theorem StateInv.hotpTake {s : State} (h : StateInv s) {digits : Nat} (hdigits : digits ≤ 410) :
    StateInv (hotpTake digits s) := by
  obtain ⟨-, ht⟩ | ⟨x, -, ht⟩ := hotpTake_cases digits s <;> rw [ht]
  · exact h
  · obtain ⟨-, hx⟩ | ⟨dlen, d, -, -, hx⟩ | ⟨dlen, d, -, -, hx⟩ | ⟨dlen, d, -, -, -, hx⟩ :=
      hotpDerive_cases digits x (consumeAnswer s) <;> rw [hx]
    · exact stateInv_complete (by decide) rfl h.resultsBounded
    · exact stateInv_complete (by decide) rfl h.resultsBounded
    · exact stateInv_complete (by decide) rfl h.resultsBounded
    · exact stateInv_complete (by decide) (by simp) (resultsBounded_deriveCode _ hdigits _)

/-- Only `HMAC` and `HOTP` wait, and a field of four bits holds the digits (R91, R137, R167). -/
theorem waitingInstr_cases {w : Word} {i : Instr} (h : waitingInstr w = some i) :
    (∃ alg src, i = .hmac alg src) ∨ (∃ alg digits, i = .hotp alg digits ∧ digits ≤ 15) := by
  unfold waitingInstr at h
  split at h
  · exact .inl ⟨_, _, (Option.some.inj h).symm⟩
  · have hfield : digitsField w < 2 ^ 4 := BitVec.isLt _
    exact .inr ⟨_, _, (Option.some.inj h).symm, by omega⟩
  · cases h

/-- A waiting command's step keeps the invariants. -/
theorem stateInv_execWaiting {s t : State} (h : StateInv s) (hp : s.phase = .wait) {i : Instr}
    (hw : waitingInstr s.cmdw = some i) (ht : exec i s = .next t) : StateInv t := by
  obtain ⟨alg, src, rfl⟩ | ⟨alg, digits, rfl, hdigits⟩ := waitingInstr_cases hw
  · obtain ⟨-, rfl⟩ | ⟨hne, -⟩ := execHmac_cases ht
    · exact h.hmacTake
    · exact absurd hp hne
  · obtain ⟨-, rfl⟩ | ⟨hne, -⟩ := execHotp_cases ht
    · exact h.hotpTake (by omega)
    · exact absurd hp hne

/-! ### Every step -/

theorem stateInv_sequencerStep {s t : State} (h : StateInv s) (ht : sequencerStep s = .next t) : StateInv t := by
  obtain rfl | ⟨hp, -, rfl⟩ | ⟨i, hp, hw, he⟩ | ⟨i, hp, hw, he⟩ := sequencerStep_cases ht
  · exact h
  · exact stateInv_complete_of_exec h hp (by decide)
  · exact stateInv_exec h hp hw he
  · exact stateInv_execWaiting h hp hw he

/-- Settles O55, by the step's agents: each keeps the invariants, whatever moves are still lined up. -/
theorem stepKeepsTheInvariants : Obligations.StepKeepsTheInvariants := by
  intro s t h ht
  have hrest : ∀ rest, StateInv { s with schedule := rest } := fun _ => h.congr rfl
  obtain ⟨-, ht⟩ | ⟨rest, -, ht⟩ | ⟨x, rest, -, rfl⟩ | ⟨a, rest, -, rfl⟩ | ⟨a, v, rest, -, rfl⟩ | ⟨rest, -, rfl⟩ :=
    step_cases ht
  · exact stateInv_sequencerStep h ht
  · exact stateInv_sequencerStep (hrest rest) ht
  · exact (hrest rest).coreRespond x
  · exact (hrest rest).hostRead a
  · exact (hrest rest).hostWrite a v
  · exact stateInv_resetBlock _

end Sys2Proof.Machine
end

section
/-! PROOFS. The state after reset (R30): its values, and that it meets the invariants. -/

namespace Sys2Proof.Machine

/-- The machine's own state after reset is one the reset input gives. -/
theorem resetBlock_reset : resetBlock State.reset = State.reset := rfl

/-- Settles O54: the reset state is the result of a reset, and its buffers define no byte. -/
theorem resetMeetsTheInvariants : Obligations.ResetMeetsTheInvariants :=
  ⟨resetBlock_reset ▸ stateInv_resetBlock State.reset, ⟨wf_nil _, wf_nil _, wf_nil _, wf_nil _⟩⟩

/-- Settles O52: both states are results of a reset, whose fields the laws of `resetBlock` give one by one. -/
theorem resetGivesTheResetState : Obligations.ResetGivesTheResetState := by
  intro s rest hs
  refine ⟨_, step_of_schedule_cons hs, fun u hu => ?_⟩
  obtain ⟨v, rfl⟩ : ∃ v, u = resetBlock v := by
    obtain rfl | rfl := hu
    · exact ⟨_, rfl⟩
    · exact ⟨_, resetBlock_reset.symm⟩
  simp [State.busy, State.irq, coreRespond_of_chan_idle (resetBlock_chan v)]

end Sys2Proof.Machine
end

section
/-! PROOFS. Buffers under the commands' and the host's accesses (R26, R64, R76): what a read shows of the defined bytes,
and that writing a word again changes nothing. -/

namespace Sys2Proof.Machine

/-! ### Reads -/

/-- A specified byte reads as its value, whatever the draw. -/
theorem readByte_of_byteAt {m : Memory} {i : Nat} {b : Byte} (h : m.byteAt i = some b) (d : Nat) :
    m.readByte i d = b := by
  rw [Memory.readByte, h, Option.getD_some]

/-- A specified byte stands in what a command reads (R76). -/
theorem readBytes_getElem?_of_byteAt {m : Memory} {j n : Nat} {b : Byte} (h : m.byteAt j = some b) (hj : j < n)
    (d : Nat) : (m.readBytes n d)[j]? = some b := by
  simp [Memory.readBytes, hj, readByte_of_byteAt h]

/-- Lane `k` of four joined bytes is byte `k` (R64). -/
theorem lane_joinLanes (b : Fin 4 → Byte) (k : Fin 4) : lane (joinLanes (b 0) (b 1) (b 2) (b 3)) k = b k := by
  have hskip : ∀ {u n : Nat} {hi : BitVec u} {lo : Byte}, (hi ++ lo).extractLsb' (n + 8) 8 = hi.extractLsb' n 8 :=
    BitVec.extractLsb'_append_eq_of_le (Nat.le_add_left _ _)
  fin_cases k
  · exact BitVec.extractLsb'_append_eq_right
  · exact hskip.trans BitVec.extractLsb'_append_eq_right
  · exact hskip.trans (hskip.trans BitVec.extractLsb'_append_eq_right)
  · exact hskip.trans (hskip.trans (hskip.trans BitVec.extractLsb'_eq_self))

/-- Word `w` of a buffer reads with byte `4w + k` on lane `k` wherever that byte is specified (R64, R66). -/
theorem lane_bufferWord {m : Memory} {w k : Nat} {b : Byte} (hk : k < 4) (h : m.byteAt (4 * w + k) = some b) (d : Nat) :
    lane (bufferWord m w d) k = b :=
  (lane_joinLanes (fun j => m.readByte (4 * w + j) (d + j)) ⟨k, hk⟩).trans (readByte_of_byteAt h _)

/-! ### Word writes -/

/-- `byteAt_writeBufferWord` by the word and the lane of an index (R64). -/
theorem byteAt_writeBufferWord_div (m : Memory) (w j : Nat) (v : Word) :
    (writeBufferWord m w v).byteAt j = if j / 4 = w then some (lane v (j % 4)) else m.byteAt j := by
  rw [byteAt_writeBufferWord]
  by_cases h : j / 4 = w
  · rw [if_pos h, if_pos (by omega), show j - 4 * w = j % 4 by omega]
  · rw [if_neg h, if_neg (by omega)]

/-- In canonical form, writing a byte that is already there changes nothing. -/
theorem setByte_of_byteAt {cap lo i : Nat} {m : Memory} {b : Byte} (hm : m.rising cap lo = true)
    (h : m.byteAt i = some b) : m.setByte i b = m := by
  induction m generalizing lo with
  | nil => simp at h
  | cons c m ih =>
    obtain ⟨a, c⟩ := c
    simp only [Memory.rising, Bool.and_eq_true, decide_eq_true_eq] at hm
    obtain ⟨-, hrest⟩ := hm
    rw [byteAt_cons] at h
    by_cases hai : a = i
    · rw [if_pos hai] at h
      obtain rfl := hai
      obtain rfl := Option.some.inj h
      simp [Memory.setByte]
    · rw [if_neg hai] at h
      have hlt : ¬ i < a := fun hlt => by simp [byteAt_of_rising hrest (Nat.lt_succ_of_lt hlt)] at h
      rw [Memory.setByte, if_neg hlt, if_neg (Ne.symm hai), ih hrest h]

/-- In canonical form, writing a word again changes nothing (R75): each of its four bytes is already there. -/
theorem writeBufferWord_idempotent {cap w : Nat} {m : Memory} (v : Word) (hm : m.wf cap = true)
    (hw : 4 * w + 3 < cap) : writeBufferWord (writeBufferWord m w v) w v = writeBufferWord m w v := by
  have hset : ∀ k < 4, (writeBufferWord m w v).setByte (4 * w + k) (lane v k) = writeBufferWord m w v := fun k hk =>
    setByte_of_byteAt (wf_writeBufferWord v hm hw) (by
      rw [byteAt_writeBufferWord_div, if_pos (by omega), show (4 * w + k) % 4 = k by omega])
  have hset0 : (writeBufferWord m w v).setByte (4 * w) (lane v 0) = writeBufferWord m w v := hset 0 (by decide)
  rw [writeBufferWord.eq_def (writeBufferWord m w v), hset0, hset 1 (by decide), hset 2 (by decide), hset 3 (by decide)]

/-- Settles O11: each of the three slices is read byte by byte and has its register's length. -/
theorem readsTheDefinedBytes : Obligations.ReadsTheDefinedBytes := fun s _ _ =>
  ⟨fun h hj => readBytes_getElem?_of_byteAt h hj _, fun h hj => readBytes_getElem?_of_byteAt h hj _,
    fun h hj => readBytes_getElem?_of_byteAt h hj _, inputBytes_length s, keyBytes_length s, digestBytes_length s⟩

end Sys2Proof.Machine
end

section
/-! PROOFS. The address map (R61) and the check of an access (R63), by the words that stand in the window. -/

namespace Sys2Proof.Machine

/-- The words that stand in the window (R61): a buffer has no more words than its capacity holds. -/
def Reg.InMap : Reg → Prop
  | .ibuf w => w < 64
  | .obuf w => w < 128
  | .kbuf w => w < 64
  | .dbuf w => w < 16
  | _ => True

/-! ### The address of a buffer's word -/

theorem eq_addrOf_ibuf {a : Addr} {w : Nat} (h : a.toNat = 0x100 + 4 * w) : a = addrOf (.ibuf w) := by
  simp [addrOf, ← h]

theorem eq_addrOf_obuf {a : Addr} {w : Nat} (h : a.toNat = 0x200 + 4 * w) : a = addrOf (.obuf w) := by
  simp [addrOf, ← h]

theorem eq_addrOf_kbuf {a : Addr} {w : Nat} (h : a.toNat = 0x400 + 4 * w) : a = addrOf (.kbuf w) := by
  simp [addrOf, ← h]

theorem eq_addrOf_dbuf {a : Addr} {w : Nat} (h : a.toNat = 0x500 + 4 * w) : a = addrOf (.dbuf w) := by
  simp [addrOf, ← h]

/-! ### The map -/

theorem addrOf_aligned (r : Reg) : (addrOf r).toNat % 4 = 0 := by
  cases r <;> simp [addrOf]

/-- The map of R61 is one to one with the words that stand in the window. -/
theorem regAtNumber_eq_some_iff {n : Nat} {r : Reg} (hn : n % 4 = 0) :
    regAtNumber n = some r ↔ n = (addrOf r).toNat ∧ r.InMap := by
  simp only [regAtNumber, ite_eq_iff]
  cases r <;> simp [addrOf, Reg.InMap] <;> omega

theorem regAtNumber_eq_none_iff {n : Nat} (hn : n % 4 = 0) : regAtNumber n = none ↔ mappedR61 n = false := by
  simp [regAtNumber, ite_eq_iff, mappedR61]
  omega

theorem readOnlyR61_addrOf {r : Reg} (hr : r.InMap) : readOnlyR61 (addrOf r).toNat = r.readOnly := by
  cases r <;> simp [addrOf, Reg.InMap, readOnlyR61, Reg.readOnly] at hr ⊢ <;> omega

/-! ### The check -/

/-- An access reaches the word at its address, a write only one the host may write (R63). -/
theorem hostCheck_eq_some_iff {kind : Access} {a : Addr} {r : Reg} :
    hostCheck kind a = some r ↔ a = addrOf r ∧ r.InMap ∧ (kind = .write → r.readOnly = false) := by
  constructor
  · intro h
    unfold hostCheck at h
    split at h
    · cases h
    · next ha =>
      split at h
      · cases h
      · next r' hreg =>
        split at h
        · cases h
        · next hro =>
          cases h
          obtain ⟨hnum, hmap⟩ := (regAtNumber_eq_some_iff (by omega)).mp hreg
          exact ⟨BitVec.eq_of_toNat_eq hnum, hmap, fun hk => by simpa [hk] using hro⟩
  · rintro ⟨rfl, hmap, hro⟩
    have hreg : regAtNumber (addrOf r).toNat = some r :=
      (regAtNumber_eq_some_iff (addrOf_aligned r)).mpr ⟨rfl, hmap⟩
    simpa [hostCheck, addrOf_aligned, hreg] using hro

/-- The model's check faults exactly where R63 says. -/
theorem hostCheck_eq_none_iff {kind : Access} {a : Addr} : hostCheck kind a = none ↔ faultsR63 kind a = true := by
  by_cases ha : a.toNat % 4 = 0
  · cases hreg : regAtNumber a.toNat with
    | none => simp [hostCheck, faultsR63, ha, hreg, (regAtNumber_eq_none_iff ha).mp hreg]
    | some r =>
      have hmapped : mappedR61 a.toNat = true := by
        simpa [hreg] using (regAtNumber_eq_none_iff ha).not
      obtain ⟨hnum, hmap⟩ := (regAtNumber_eq_some_iff ha).mp hreg
      have hro : readOnlyR61 a.toNat = r.readOnly := hnum ▸ readOnlyR61_addrOf hmap
      simp [hostCheck, faultsR63, ha, hreg, hmapped, hro]
  · simp [hostCheck, faultsR63, ha]

theorem exists_hostCheck_of_not_faults {kind : Access} {a : Addr} (h : faultsR63 kind a = false) :
    ∃ r, hostCheck kind a = some r := by
  rw [← Option.ne_none_iff_exists', ne_eq, hostCheck_eq_none_iff, h]
  decide

end Sys2Proof.Machine
end

section
/-! PROOFS. The bits of the words that are computed and not stored: `STATUS` idle and busy, and `CTRL` (R24, R25, R71). -/

namespace Sys2Proof.Machine

theorem getLsbD_flagBit (b : Bool) {k : Nat} (hk : k < 32) (i : Nat) :
    (flagBit b k).getLsbD i = (b && decide (k = i)) := by
  cases b with
  | false => simp [flagBit]
  | true =>
    have hbit : flagBit true k = BitVec.twoPow 32 k := rfl
    simp [hbit, BitVec.getLsbD_twoPow, hk]

theorem getLsbD_idleStatus (s : State) {i : Nat} (hi : i < 32) : s.idleStatus.getLsbD i =
    ((s.done && decide (1 = i)) || (s.ovr && decide (2 = i)) || (!decide (i < 4) && s.err.getLsbD (i - 4))) := by
  have hlt : i - 4 < 32 := by omega
  simp [-BitVec.getLsbD_eq_getElem, State.idleStatus, getLsbD_flagBit, hi, hlt]

theorem getLsbD_busyStatus (s : State) (i : Nat) :
    s.busyStatus.getLsbD i = (decide (i = 0) || (s.ovr && decide (2 = i))) := by
  simp [State.busyStatus, getLsbD_flagBit, BitVec.getLsbD_one]

theorem getLsbD_ctrlWord (s : State) (i : Nat) : s.ctrlWord.getLsbD i = (s.ie && decide (0 = i)) :=
  getLsbD_flagBit s.ie (by decide) i

/-- `STATUS` as it reads while idle, field by field (R24, R66). -/
theorem idleStatus_fields (s : State) :
    s.idleStatus.getLsbD 0 = false ∧ s.idleStatus.getLsbD 1 = s.done ∧ s.idleStatus.getLsbD 2 = s.ovr ∧
      s.idleStatus.getLsbD 3 = false ∧ s.idleStatus.extractLsb' 4 4 = s.err ∧ s.idleStatus.extractLsb' 8 24 = 0 := by
  refine ⟨by simpa using getLsbD_idleStatus s (i := 0) (by decide),
    by simpa using getLsbD_idleStatus s (i := 1) (by decide), by simpa using getLsbD_idleStatus s (i := 2) (by decide),
    by simpa using getLsbD_idleStatus s (i := 3) (by decide), BitVec.eq_of_getLsbD_eq fun i hi => ?_,
    BitVec.eq_of_getLsbD_eq fun i hi => ?_⟩
  · have hne : ¬ 1 = 4 + i ∧ ¬ 2 = 4 + i := by omega
    rw [BitVec.getLsbD_extractLsb', getLsbD_idleStatus s (by omega)]
    simp [hne, hi]
  · have hne : ¬ 1 = 8 + i ∧ ¬ 2 = 8 + i := by omega
    rw [BitVec.getLsbD_extractLsb', getLsbD_idleStatus s (by omega)]
    simp [hne, BitVec.getLsbD_of_ge s.err (8 + i - 4) (by omega)]

/-- `STATUS` as it reads while busy, field by field (R71). -/
theorem busyStatus_fields (s : State) :
    s.busyStatus.getLsbD 0 = true ∧ s.busyStatus.getLsbD 1 = false ∧ s.busyStatus.getLsbD 2 = s.ovr ∧
      s.busyStatus.extractLsb' 3 29 = 0 := by
  simp only [getLsbD_busyStatus]
  refine ⟨by simp, by simp, by simp, BitVec.eq_of_getLsbD_eq fun i hi => ?_⟩
  have hne : ¬ 2 = 3 + i := by omega
  rw [BitVec.getLsbD_extractLsb', getLsbD_busyStatus]
  simp [hne]

/-- `CTRL` as it reads, field by field (R25). -/
theorem ctrlWord_fields (s : State) : s.ctrlWord.getLsbD 0 = s.ie ∧ s.ctrlWord.extractLsb' 1 31 = 0 := by
  simp only [getLsbD_ctrlWord]
  refine ⟨by simp, BitVec.eq_of_getLsbD_eq fun i hi => ?_⟩
  have hne : ¬ 0 = 1 + i := by omega
  rw [BitVec.getLsbD_extractLsb', getLsbD_ctrlWord]
  simp [hne]

end Sys2Proof.Machine
end

section
/-! PROOFS. The host port (R63 to R71, R75): what one access does, by the check's answer and the phase, and the statements
about it. -/

namespace Sys2Proof.Machine

theorem busy_eq_false {s : State} (hp : s.phase = .idle) : s.busy = false := by simp [State.busy, hp]

theorem busy_eq_true {s : State} (hp : s.phase ≠ .idle) : s.busy = true := by simp [State.busy, hp]

section Accesses

variable {s : State} {a : Addr} {r : Reg}

/-! ### One access -/

theorem hostRead_of_faults (h : faultsR63 .read a = true) : hostRead a s = respond .hostFault s := by
  simp only [hostRead, hostCheck_eq_none_iff.mpr h]

theorem hostWrite_of_faults (h : faultsR63 .write a = true) (v : Word) : hostWrite a v s = respond .hostFault s := by
  simp only [hostWrite, hostCheck_eq_none_iff.mpr h]

theorem hostRead_of_idle (hp : s.phase = .idle) (hr : hostCheck .read a = some r) :
    hostRead a s = respond (.data (readValue r s)) (spend (readDraws r) s) := by
  simp [hostRead, hr, busy_eq_false hp]

/-- A read while busy answers a word and draws at most one; for `STATUS` the word is the busy one (R71). -/
theorem hostRead_of_busy (hp : s.phase ≠ .idle) (hr : hostCheck .read a = some r) :
    ∃ x n, hostRead a s = respond (.data x) (spend n s) ∧ (r = .status → x = s.busyStatus) := by
  have hread : hostRead a s = readBusy r s := by simp [hostRead, hr, busy_eq_true hp]
  rw [hread, readBusy]
  split
  · exact ⟨_, 0, rfl, fun _ => rfl⟩
  · next hne => exact ⟨_, 1, rfl, fun h => absurd h hne⟩

theorem hostWrite_of_idle (hp : s.phase = .idle) (hr : hostCheck .write a = some r) (v : Word) :
    hostWrite a v s = respond .ok (writeReg r v s) := by
  simp [hostWrite, hr, busy_eq_false hp]

theorem hostWrite_of_busy (hp : s.phase ≠ .idle) (hr : hostCheck .write a = some r) (v : Word) :
    hostWrite a v s = respond .ok { s with ovr := true } := by
  simp [hostWrite, hr, busy_eq_true hp]

/-- A write that does not fault answers `ok`. -/
theorem hostWrite_response (hr : hostCheck .write a = some r) (v : Word) : (hostWrite a v s).response = some .ok := by
  by_cases hp : s.phase = .idle
  · rw [hostWrite_of_idle hp hr, respond_response]
  · rw [hostWrite_of_busy hp hr, respond_response]

/-- A read that does not fault answers a word. -/
theorem hostRead_response (hr : hostCheck .read a = some r) : ∃ x, (hostRead a s).response = some (.data x) := by
  by_cases hp : s.phase = .idle
  · exact ⟨_, by rw [hostRead_of_idle hp hr, respond_response]⟩
  · obtain ⟨x, n, hread, -⟩ := hostRead_of_busy hp hr
    exact ⟨x, by rw [hread, respond_response]⟩

end Accesses

/-! ### Steps -/

/-- A turn with no move lined up is the sequencer's (log entry 1). -/
theorem step_of_schedule_nil {s : State} (h : s.schedule = []) : step s = sequencerStep s := by
  rw [step, takeTurn, h]

/-- A word that spells no command ends in `IllegalCommand` when the sequencer runs (R97). -/
theorem sequencerStep_of_decode_error {s : State} (hp : s.phase = .exec) {e : DecodeError}
    (h : decode s.cmdw = .error e) : sequencerStep s = .next (complete .illegalCommand s) := by
  simp only [sequencerStep, hp, runCommand, h]

/-- No write looks at the port's last answer, which is no field of the block (log entry 7). -/
theorem respond_writeReg (x : HostResponse) (r : Reg) (v : Word) (s : State) :
    respond x (writeReg r v s) = writeReg r v (respond x s) := by
  cases r <;> rfl

/-- A step that writes while idle is `writeReg` at the word the address reaches (R67). -/
theorem step_write_of_idle {s : State} {a : Addr} {v : Word} {rest : List Move} {r : Reg} (hp : s.phase = .idle)
    (hs : s.schedule = .write a v :: rest) (hr : hostCheck .write a = some r) :
    step s = .next (writeReg r v { s with schedule := rest, response := some .ok }) := by
  rw [step_of_schedule_cons hs, makeMove, hostWrite_of_idle (s := { s with schedule := rest }) hp hr, respond_writeReg]
  rfl

/-! ### Faults -/

/-- Settles O37: the check faults exactly where R63 says, and every other access answers. -/
theorem badAccessesFault : Obligations.BadAccessesFault := by
  intro s a v rest
  refine ⟨fun hs => ⟨fun hf => ?_, fun hf => ?_⟩, fun hs => ⟨fun hf => ?_, fun hf => ?_⟩⟩ <;>
    rw [step_of_schedule_cons hs, makeMove]
  · rw [hostRead_of_faults hf]
    rfl
  · obtain ⟨r, hr⟩ := exists_hostCheck_of_not_faults hf
    obtain ⟨x, hx⟩ := hostRead_response hr
    exact ⟨_, x, rfl, hx⟩
  · rw [hostWrite_of_faults hf]
    rfl
  · obtain ⟨r, hr⟩ := exists_hostCheck_of_not_faults hf
    exact ⟨_, rfl, hostWrite_response hr v⟩

/-! ### Writes -/

/-- Settles O40: the check lets the write through and the port drops it. -/
theorem busyWritesAreDropped : Obligations.BusyWritesAreDropped := by
  intro s a v rest hp hs hf
  obtain ⟨r, hr⟩ := exists_hostCheck_of_not_faults hf
  rw [step_of_schedule_cons hs, makeMove, hostWrite_of_busy (s := { s with schedule := rest }) hp hr]
  rfl

/-- Settles O38: the write is the issue of the word, and the sequencer's step follows when nothing else is lined up. -/
theorem cmdWriteIssues : Obligations.CmdWriteIssues := by
  intro s v rest hp hs
  refine ⟨_, step_write_of_idle hp hs (r := .cmd) rfl, ?_, ?_, rfl, fun hrest e he => ?_⟩
  · simp [State.irq, writeReg]
  · simp [State.busy, writeReg]
  · exact (step_of_schedule_nil hrest).trans (sequencerStep_of_decode_error rfl he)

/-- Settles O39: the write is the acknowledge, whose two flags are cleared bit by bit. -/
theorem statusWriteAcknowledges : Obligations.StatusWriteAcknowledges := by
  intro s v rest hp hs
  have hclear : ∀ b c : Bool, (if c then false else b) = (b && !c) := by decide
  rw [step_write_of_idle hp hs (r := .status) rfl, hclear, hclear]
  rfl

/-- Settles O41: each address is that of a word, and `writeReg` says what a write to it sets. -/
theorem idleWritesSetTheWord : Obligations.IdleWritesSetTheWord := by
  rintro s a v rest hp hs u rfl
  have hstep : ∀ r : Reg, r.InMap → r.readOnly = false → a = addrOf r →
      step s = .next (writeReg r v { s with schedule := rest, response := some .ok }) := fun r hmap hro ha =>
    step_write_of_idle hp hs (hostCheck_eq_some_iff.mpr ⟨ha, hmap, fun _ => hro⟩)
  refine ⟨hstep .ctrl trivial rfl, hstep .ilen trivial rfl, hstep .klen trivial rfl, hstep .dlen trivial rfl,
    fun ha => ⟨_, hstep .ctrLo trivial rfl ha, BitVec.extractLsb'_append_eq_right, BitVec.extractLsb'_append_eq_left⟩,
    fun ha => ⟨_, hstep .ctrHi trivial rfl ha, BitVec.extractLsb'_append_eq_left, BitVec.extractLsb'_append_eq_right⟩,
    fun w hw ha => ⟨_, hstep (.ibuf w) hw rfl (eq_addrOf_ibuf ha), fun j => byteAt_writeBufferWord_div _ w j v⟩,
    fun w hw ha => ⟨_, hstep (.kbuf w) hw rfl (eq_addrOf_kbuf ha), fun j => byteAt_writeBufferWord_div _ w j v⟩,
    fun w hw ha => ⟨_, hstep (.dbuf w) hw rfl (eq_addrOf_dbuf ha), fun j => byteAt_writeBufferWord_div _ w j v⟩⟩

/-! ### Idempotence -/

theorem writeReg_phase {r : Reg} (h : r ≠ .cmd) (v : Word) (s : State) : (writeReg r v s).phase = s.phase := by
  cases r with
  | cmd => exact absurd rfl h
  | _ => rfl

theorem acknowledge_idempotent (v : Word) (s : State) : acknowledge v (acknowledge v s) = acknowledge v s := by
  simp [acknowledge]

/-- A write to any word of the window but `CMD`, made again, changes nothing (R75). -/
theorem writeReg_idempotent {r : Reg} {s : State} (hs : BuffersWf s) (hmap : r.InMap) (h : r ≠ .cmd) (v : Word) :
    writeReg r v (writeReg r v s) = writeReg r v s := by
  cases r with
  | cmd => exact absurd rfl h
  | status => exact acknowledge_idempotent v s
  | ctrLo => simp only [writeReg, BitVec.extractLsb'_append_eq_left]
  | ctrHi => simp only [writeReg, BitVec.extractLsb'_append_eq_right]
  | ibuf w =>
    have hw : w < 64 := hmap
    simp only [writeReg, writeBufferWord_idempotent v hs.ibuf (show 4 * w + 3 < 256 by omega)]
  | kbuf w =>
    have hw : w < 64 := hmap
    simp only [writeReg, writeBufferWord_idempotent v hs.kbuf (show 4 * w + 3 < 256 by omega)]
  | dbuf w =>
    have hw : w < 16 := hmap
    simp only [writeReg, writeBufferWord_idempotent v hs.dbuf (show 4 * w + 3 < 64 by omega)]
  | _ => rfl

/-- Settles O44: a fault and a dropped write repeat themselves; an idle write is one of `writeReg`, made twice. -/
theorem writesAreIdempotent : Obligations.WritesAreIdempotent := by
  intro s a v hs ha
  cases hr : hostCheck .write a with
  | none =>
    have hf := hostCheck_eq_none_iff.mp hr
    rw [hostWrite_of_faults hf, hostWrite_of_faults hf]
    rfl
  | some r =>
    by_cases hp : s.phase = .idle
    · obtain ⟨haddr, hmap, -⟩ := hostCheck_eq_some_iff.mp hr
      have hne : r ≠ .cmd := by
        rintro rfl
        exact ha haddr
      rw [hostWrite_of_idle hp hr, hostWrite_of_idle (by simp [writeReg_phase hne, hp]) hr, ← respond_writeReg,
        writeReg_idempotent hs hmap hne]
      rfl
    · rw [hostWrite_of_busy hp hr, hostWrite_of_busy (by simpa using hp) hr]
      rfl

/-! ### Reads -/

/-- Settles O42: the access answers what stands at its word, and the words' own lemmas say which bits and bytes. -/
theorem idleReadsReturnTheWord : Obligations.IdleReadsReturnTheWord := by
  intro s a rest hp hs hf
  obtain ⟨r, hr⟩ := exists_hostCheck_of_not_faults hf
  have hval : ∀ r' : Reg, r'.InMap → a = addrOf r' → readValue r { s with schedule := rest } = readValue r' s := by
    intro r' hmap ha
    have hr' : hostCheck .read a = some r' := hostCheck_eq_some_iff.mpr ⟨ha, hmap, nofun⟩
    obtain rfl : r = r' := Option.some.inj (hr.symm.trans hr')
    cases r <;> rfl
  have hread := hostRead_of_idle (s := { s with schedule := rest }) hp hr
  refine ⟨_, _, by rw [step_of_schedule_cons hs, makeMove, hread], rfl, hval .cmd trivial, fun ha => ?_, fun ha => ?_, hval .ilen trivial, hval .olen trivial, hval .klen trivial, hval .dlen trivial,
    hval .ctrLo trivial, hval .ctrHi trivial, hval .value trivial, hval .code trivial,
    fun w k b hk ha hw hb => ?_, fun w k b hk ha hw hb => ?_, fun w k b hk ha hw hb => ?_, fun w k b hk ha hw hb => ?_⟩
  · rw [hval .status trivial ha]
    exact idleStatus_fields s
  · rw [hval .ctrl trivial ha]
    exact ctrlWord_fields s
  · rw [hval (.ibuf w) hw (eq_addrOf_ibuf ha)]
    exact lane_bufferWord hk hb _
  · rw [hval (.obuf w) hw (eq_addrOf_obuf ha)]
    exact lane_bufferWord hk hb _
  · rw [hval (.kbuf w) hw (eq_addrOf_kbuf ha)]
    exact lane_bufferWord hk hb _
  · rw [hval (.dbuf w) hw (eq_addrOf_dbuf ha)]
    exact lane_bufferWord hk hb _

/-- Settles O43: a busy access changes no field of the block, and its `STATUS` word is the busy one. -/
theorem busyReadsShowStatusOnly : Obligations.BusyReadsShowStatusOnly := by
  intro s a rest hp hs hf
  obtain ⟨r, hr⟩ := exists_hostCheck_of_not_faults hf
  obtain ⟨x, n, hread, hstatus⟩ := hostRead_of_busy (s := { s with schedule := rest }) hp hr
  refine ⟨_, x, by rw [step_of_schedule_cons hs, makeMove, hread], rfl, fun ha => ?_⟩
  obtain rfl : x = s.busyStatus := hstatus (Option.some.inj (hr.symm.trans (ha ▸ rfl)))
  exact busyStatus_fields s

end Sys2Proof.Machine
end

section
/-! PROOFS. The command word (R90 to R95): its fields as numbers, the decoder on a word packed from fields, and the two
directions of the encoding. -/

namespace Sys2Proof

/-! ### Fields -/

theorem field_eq (w : Word) (lo len : Nat) : field w lo len = w.toNat / 2 ^ lo % 2 ^ len := by
  rw [field, BitVec.extractLsb'_toNat, Nat.shiftRight_eq_div_pow]

theorem field_lt (w : Word) (lo len : Nat) : field w lo len < 2 ^ len := BitVec.isLt _

theorem opField_eq (w : Word) : opField w = w.toNat % 16 := by simp [opField, field_eq]

theorem algField_eq (w : Word) : algField w = w.toNat / 16 % 16 := field_eq w 4 4

theorem digitsField_eq (w : Word) : digitsField w = w.toNat / 256 % 16 := field_eq w 8 4

theorem selField_eq (w : Word) : selField w = w.toNat / 4096 % 2 := field_eq w 12 1

theorem zeroField_eq (w : Word) : zeroField w = w.toNat / 8192 := by
  have hfield : zeroField w = w.toNat / 8192 % 2 ^ 19 := field_eq w 13 19
  omega

theorem opField_lt (w : Word) : opField w < 16 := field_lt w 0 4

theorem algField_lt (w : Word) : algField w < 16 := field_lt w 4 4

theorem digitsField_lt (w : Word) : digitsField w < 16 := field_lt w 8 4

theorem selField_lt (w : Word) : selField w < 2 := field_lt w 12 1

theorem decode_of_zeroField {w : Word} (hzero : zeroField w = 0) :
    decode w = decodeOp (opField w) (algField w) (digitsField w) (selField w) := if_neg (not_not.mpr hzero)

/-! ### Packing fields -/

theorem or_shiftLeft_eq_add {a k : Nat} (h : a < 2 ^ k) (b : Nat) : a ||| b <<< k = a + 2 ^ k * b := by
  rw [Nat.or_comm, ← Nat.shiftLeft_add_eq_or_of_lt h, Nat.shiftLeft_eq, Nat.mul_comm, Nat.add_comm]

section Packing

variable {op alg digits sel : Nat} (hop : op < 16) (halg : alg < 16) (hdigits : digits < 16) (hsel : sel < 2)
include hop halg hdigits hsel

/-- The fields stand side by side (R91). -/
theorem packWord_toNat : (packWord op alg digits sel).toNat = op + 16 * alg + 256 * digits + 4096 * sel := by
  rw [packWord, or_shiftLeft_eq_add (a := op) hop, or_shiftLeft_eq_add (k := 8) (a := op + _) (by omega),
    or_shiftLeft_eq_add (k := 12) (by omega), BitVec.toNat_ofNat]
  omega

/-- The decoder reads the packed fields back and goes by `OP` (R91, R92). -/
theorem decode_packWord : decode (packWord op alg digits sel) = decodeOp op alg digits sel := by
  have hw := packWord_toNat hop halg hdigits hsel
  have hzero : zeroField (packWord op alg digits sel) = 0 := by rw [zeroField_eq, hw]; omega
  have hfield : opField (packWord op alg digits sel) = op ∧ algField (packWord op alg digits sel) = alg ∧
      digitsField (packWord op alg digits sel) = digits ∧ selField (packWord op alg digits sel) = sel := by
    rw [opField_eq, algField_eq, digitsField_eq, selField_eq, hw]
    omega
  obtain ⟨hop, halg, hdigits, hsel⟩ := hfield
  rw [decode_of_zeroField hzero, hop, halg, hdigits, hsel]

end Packing

/-- A word with bits 31:13 zero is the packing of its fields (R91). -/
theorem packWord_fields {w : Word} (hzero : zeroField w = 0) :
    packWord (opField w) (algField w) (digitsField w) (selField w) = w := by
  apply BitVec.eq_of_toNat_eq
  rw [packWord_toNat (opField_lt w) (algField_lt w) (digitsField_lt w) (selField_lt w), opField_eq, algField_eq,
    digitsField_eq, selField_eq]
  rw [zeroField_eq] at hzero
  omega

/-! ### Operands and their numbers -/

theorem AlgId.number_lt {alg : AlgId} (h : alg.wellFormed = true) : alg.number < 16 := by
  cases alg with
  | known a => cases a <;> decide
  | unsupported n =>
    simp only [AlgId.wellFormed, Bool.and_eq_true, decide_eq_true_eq] at h
    exact Nat.lt_succ_of_le h.2

theorem algOfNumber_of_three_le {n : Nat} (h : 3 ≤ n) : algOfNumber n = .unsupported n := by
  obtain ⟨k, rfl⟩ := Nat.exists_eq_add_of_le' h
  rfl

theorem algOfNumber_number {alg : AlgId} (h : alg.wellFormed = true) : algOfNumber alg.number = alg := by
  cases alg with
  | known a => cases a <;> rfl
  | unsupported n =>
    simp only [AlgId.wellFormed, Bool.and_eq_true, decide_eq_true_eq] at h
    exact algOfNumber_of_three_le h.1

@[simp] theorem number_algOfNumber (n : Nat) : (algOfNumber n).number = n := by
  unfold algOfNumber
  split <;> rfl

theorem wellFormed_algOfNumber {n : Nat} (h : n < 16) : (algOfNumber n).wellFormed = true := by
  obtain hlt | hle := Nat.lt_or_ge n 3
  · interval_cases n <;> rfl
  · rw [algOfNumber_of_three_le hle, AlgId.wellFormed, decide_eq_true hle, decide_eq_true (Nat.le_of_lt_succ h)]
    rfl

@[simp] theorem destOfSel_sel (dest : DecDest) : destOfSel dest.sel = dest := by cases dest <;> rfl

@[simp] theorem srcOfSel_sel (src : MsgSrc) : srcOfSel src.sel = src := by cases src <;> rfl

theorem DecDest.sel_lt (dest : DecDest) : dest.sel < 2 := by cases dest <;> decide

theorem MsgSrc.sel_lt (src : MsgSrc) : src.sel < 2 := by cases src <;> decide

theorem sel_destOfSel {sel : Nat} (h : sel < 2) : (destOfSel sel).sel = sel := by interval_cases sel <;> rfl

theorem sel_srcOfSel {sel : Nat} (h : sel < 2) : (srcOfSel sel).sel = sel := by interval_cases sel <;> rfl

theorem digitsWellFormed_iff {digits : Nat} : digitsWellFormed digits = true ↔ digits < 16 := by
  rw [digitsWellFormed, decide_eq_true_eq, Nat.lt_succ_iff]

/-! ### The decoder, row by row -/

/-- All that `decodeOp` reads (R92, R97 check 1): one of the five rows, its unused fields 0. -/
theorem decodeOp_ok_cases {op alg digits sel : Nat} {i : Instr} (h : decodeOp op alg digits sel = .ok i) :
    (op = 1 ∧ alg = 0 ∧ digits = 0 ∧ sel = 0 ∧ i = .b32enc) ∨
      (op = 2 ∧ alg = 0 ∧ digits = 0 ∧ i = .b32dec (destOfSel sel)) ∨
      (op = 3 ∧ digits = 0 ∧ i = .hmac (algOfNumber alg) (srcOfSel sel)) ∨
      (op = 4 ∧ alg = 0 ∧ sel = 0 ∧ i = .dtrunc digits) ∨
      (op = 5 ∧ sel = 0 ∧ i = .hotp (algOfNumber alg) digits) := by
  unfold decodeOp at h
  split at h <;> grind

/-- All that the decoder reads: a command of `decodeOp`, the bits above the fields 0. -/
theorem decode_eq_ok_iff {w : Word} {i : Instr} : decode w = .ok i ↔
    zeroField w = 0 ∧ decodeOp (opField w) (algField w) (digitsField w) (selField w) = .ok i := by
  by_cases hzero : zeroField w = 0 <;> simp [decode, hzero]

/-- Settles O2, by the rows: the decoder unpacks the encoder's fields, and each field's number names its operand. -/
theorem decodeOfEncode : Obligations.DecodeOfEncode := by
  intro i hi
  cases i with
  | b32enc => exact decode_packWord (by decide) (by decide) (by decide) (by decide)
  | b32dec dest =>
    rw [encode, decode_packWord (by decide) (by decide) (by decide) dest.sel_lt]
    simp [decodeOp]
  | hmac alg src =>
    rw [encode, decode_packWord (by decide) (AlgId.number_lt hi) (by decide) src.sel_lt]
    simp [decodeOp, algOfNumber_number hi]
  | dtrunc digits =>
    rw [encode, decode_packWord (by decide) (by decide) (digitsWellFormed_iff.mp hi) (by decide)]
    rfl
  | hotp alg digits =>
    obtain ⟨halg, hdigits⟩ := Bool.and_eq_true_iff.mp hi
    rw [encode, decode_packWord (by decide) (AlgId.number_lt halg) (digitsWellFormed_iff.mp hdigits) (by decide)]
    simp [decodeOp, algOfNumber_number halg]

/-- Settles O3, by the rows: the command's operands give the fields back, and the fields pack to the word. -/
theorem encodeOfDecode : Obligations.EncodeOfDecode := by
  intro w i h
  obtain ⟨hzero, hread⟩ := decode_eq_ok_iff.mp h
  have hpack := packWord_fields hzero
  obtain ⟨hop, halg, hdigits, hsel, rfl⟩ | ⟨hop, halg, hdigits, rfl⟩ | ⟨hop, hdigits, rfl⟩ |
    ⟨hop, halg, hsel, rfl⟩ | ⟨hop, hsel, rfl⟩ := decodeOp_ok_cases hread
  · rw [hop, halg, hdigits, hsel] at hpack
    exact ⟨hpack, rfl⟩
  · rw [hop, halg, hdigits] at hpack
    exact ⟨by rw [encode, sel_destOfSel (selField_lt w), hpack], rfl⟩
  · rw [hop, hdigits] at hpack
    exact ⟨by rw [encode, number_algOfNumber, sel_srcOfSel (selField_lt w), hpack],
      wellFormed_algOfNumber (algField_lt w)⟩
  · rw [hop, halg, hsel] at hpack
    exact ⟨hpack, digitsWellFormed_iff.mpr (digitsField_lt w)⟩
  · rw [hop, hsel] at hpack
    exact ⟨by rw [encode, number_algOfNumber, hpack], Bool.and_eq_true_iff.mpr
      ⟨wellFormed_algOfNumber (algField_lt w), digitsWellFormed_iff.mpr (digitsField_lt w)⟩⟩

/-- The decoder and the encoder are inverse (R90, R91, R99): a word spells a command exactly when it encodes it. -/
theorem decode_eq_ok_iff_encode {w : Word} {i : Instr} : decode w = .ok i ↔ i.wellFormed = true ∧ encode i = w := by
  refine ⟨fun h => (encodeOfDecode w i h).symm, ?_⟩
  rintro ⟨hwf, rfl⟩
  exact decodeOfEncode i hwf

/-- Settles O1: each listed word is the encoding of its command. -/
theorem listedWordsDecode : Obligations.ListedWordsDecode :=
  ⟨decodeOfEncode .b32enc rfl, decodeOfEncode (.b32dec .obuf) rfl, decodeOfEncode (.b32dec .kbuf) rfl,
    decodeOfEncode (.hmac (.known .sha1) .ibuf) rfl, decodeOfEncode (.hmac (.known .sha512) .ctr) rfl,
    decodeOfEncode (.dtrunc 6) rfl, decodeOfEncode (.dtrunc 10) rfl, decodeOfEncode (.hotp (.known .sha256) 8) rfl,
    decodeOfEncode (.hotp (.known .sha512) 10) rfl⟩

end Sys2Proof
end

section
/-! PROOFS. The rows of R100 and the counts of R99: a word matches a row exactly when it spells one of its commands, and
the words that spell a command are the encodings of the commands, listed. -/

namespace Sys2Proof

/-! ### Rows -/

/-- The word of every well-formed command matches its row. -/
theorem encode_and_rowMask (i : Instr) : Laws.TableRow.Statement i := by
  cases i with
  | b32enc => exact Laws.TableRow.b32enc
  | b32dec dest => exact Laws.TableRow.b32dec dest
  | hmac alg src => exact Laws.TableRow.hmac alg src
  | dtrunc digits => exact Laws.TableRow.dtrunc digits
  | hotp alg digits => exact Laws.TableRow.hotp alg digits

theorem and_rowMask_of_decode {w : Word} {i : Instr} (h : decode w = .ok i) :
    w &&& Laws.rowMask i = Laws.rowMatch i := by
  obtain ⟨henc, hwf⟩ := encodeOfDecode w i h
  exact henc ▸ encode_and_rowMask i hwf

/-- A match under a mask gives every field that the mask covers whole. -/
theorem field_of_and_eq {w mask m : Word} (h : w &&& mask = m) {lo len : Nat}
    (hmask : mask.extractLsb' lo len = BitVec.allOnes len) : field w lo len = field m lo len := by
  rw [field, field, ← h, BitVec.extractLsb'_and, hmask, BitVec.and_allOnes]

/-- A match under a mask that covers `ZERO` and `OP`, as every row's does, leaves the word to `decodeOp` (R92, R100). -/
theorem decode_of_and_eq {w mask m : Word} (h : w &&& mask = m) (hzero : mask.extractLsb' 13 19 = BitVec.allOnes 19)
    (hop : mask.extractLsb' 0 4 = BitVec.allOnes 4) (hm : zeroField m = 0) :
    decode w = decodeOp (opField m) (algField w) (digitsField w) (selField w) := by
  have hw : zeroField w = 0 := (field_of_and_eq h hzero).trans hm
  have hopw : opField w = opField m := field_of_and_eq h hop
  rw [decode_of_zeroField hw, hopw]

/-- Settles O4: a command's word is its encoding, which matches; a match gives the fields the row requires to be 0. -/
theorem rowsMatchUnderMask : Obligations.RowsMatchUnderMask := by
  refine fun w => ⟨⟨fun h => ?_, and_rowMask_of_decode⟩, ⟨fun h => ?_, fun ⟨_, h⟩ => and_rowMask_of_decode h⟩,
    ⟨fun h => ?_, fun ⟨_, _, h⟩ => and_rowMask_of_decode h⟩, ⟨fun h => ?_, fun ⟨_, h⟩ => and_rowMask_of_decode h⟩,
    ⟨fun h => ?_, fun ⟨_, _, h⟩ => and_rowMask_of_decode h⟩⟩ <;>
    rw [decode_of_and_eq h (by decide) (by decide) (by decide)]
  · have halg : algField w = 0 := field_of_and_eq h (by decide)
    have hdigits : digitsField w = 0 := field_of_and_eq h (by decide)
    have hsel : selField w = 0 := field_of_and_eq h (by decide)
    rw [halg, hdigits, hsel]
    rfl
  · have halg : algField w = 0 := field_of_and_eq h (by decide)
    have hdigits : digitsField w = 0 := field_of_and_eq h (by decide)
    rw [halg, hdigits]
    exact ⟨_, rfl⟩
  · have hdigits : digitsField w = 0 := field_of_and_eq h (by decide)
    rw [hdigits]
    exact ⟨_, _, rfl⟩
  · have halg : algField w = 0 := field_of_and_eq h (by decide)
    have hsel : selField w = 0 := field_of_and_eq h (by decide)
    rw [halg, hsel]
    exact ⟨_, rfl⟩
  · have hsel : selField w = 0 := field_of_and_eq h (by decide)
    rw [hsel]
    exact ⟨_, _, rfl⟩

/-! ### Counts -/

/-- What the `ALG` field can name (R93). -/
def allAlgIds : List AlgId := (List.range 16).map algOfNumber

/-- Every command some word spells, by the rows of R100. -/
def allCommands : List Instr :=
  [.b32enc] ++ [.b32dec .obuf, .b32dec .kbuf] ++
    (allAlgIds.map (Instr.hmac · .ibuf) ++ allAlgIds.map (Instr.hmac · .ctr)) ++
    (List.range 16).map .dtrunc ++ (allAlgIds ×ˢ List.range 16).map fun p => .hotp p.1 p.2

theorem mem_allAlgIds {alg : AlgId} : alg ∈ allAlgIds ↔ alg.wellFormed = true := by
  simp only [allAlgIds, List.mem_map, List.mem_range]
  constructor
  · rintro ⟨n, hn, rfl⟩
    exact wellFormed_algOfNumber hn
  · exact fun h => ⟨alg.number, AlgId.number_lt h, algOfNumber_number h⟩

theorem mem_allCommands {i : Instr} : i ∈ allCommands ↔ i.wellFormed = true := by
  cases i with
  | b32enc => simp [allCommands, Instr.wellFormed]
  | b32dec dest => cases dest <;> simp [allCommands, Instr.wellFormed]
  | hmac alg src => cases src <;> simp [allCommands, Instr.wellFormed, mem_allAlgIds]
  | dtrunc digits => simp [allCommands, Instr.wellFormed, digitsWellFormed_iff]
  | hotp alg digits => simp [allCommands, Instr.wellFormed, mem_allAlgIds, digitsWellFormed_iff, and_comm]

theorem toNat_encode_lt {i : Instr} (h : i.wellFormed = true) : (encode i).toNat < 8192 := by
  have hzero := (decode_eq_ok_iff.mp (decodeOfEncode i h)).1
  rw [zeroField_eq] at hzero
  omega

theorem nodup_allAlgIds : allAlgIds.Nodup :=
  List.nodup_range.map (Function.LeftInverse.injective number_algOfNumber)

theorem nodup_allCommands : allCommands.Nodup := by
  have hhmac : ∀ src, (allAlgIds.map (Instr.hmac · src)).Nodup := fun src =>
    nodup_allAlgIds.map fun _ _ h => (Instr.hmac.inj h).1
  have hdtrunc : ((List.range 16).map Instr.dtrunc).Nodup := List.nodup_range.map fun _ _ h => Instr.dtrunc.inj h
  have hhotp : ((allAlgIds ×ˢ List.range 16).map fun p => Instr.hotp p.1 p.2).Nodup :=
    (nodup_allAlgIds.product List.nodup_range).map fun _ _ h => Prod.ext (Instr.hotp.inj h).1 (Instr.hotp.inj h).2
  simp [-Prod.exists, -Prod.forall, allCommands, List.nodup_append, or_imp, forall_and, hhmac, hdtrunc, hhotp]

/-- The encodings of the commands are distinct, since each decodes to its command. -/
theorem nodup_encodings : (allCommands.map fun i => (encode i).toNat).Nodup := by
  refine List.Nodup.map_on (fun i hi j hj h => ?_) nodup_allCommands
  have hdecode := decodeOfEncode i (mem_allCommands.mp hi)
  rw [BitVec.eq_of_toNat_eq h, decodeOfEncode j (mem_allCommands.mp hj)] at hdecode
  exact (Except.ok.inj hdecode).symm

/-- The words below 8192 that spell a command with a property are as many as the commands with it. -/
theorem countP_words {p : Nat → Bool} {q : Instr → Bool}
    (hp : ∀ n, p n = true ↔ ∃ i, decode (BitVec.ofNat 32 n) = .ok i ∧ q i = true) :
    (List.range 8192).countP p = allCommands.countP q := by
  have hperm : ((List.range 8192).filter p).Perm ((allCommands.filter q).map fun i => (encode i).toNat) := by
    refine (List.perm_ext_iff_of_nodup (List.nodup_range.filter p)
      (nodup_encodings.sublist (List.filter_sublist.map _))).mpr fun n => ?_
    simp only [List.mem_filter, List.mem_range, List.mem_map, mem_allCommands, hp, decode_eq_ok_iff_encode]
    constructor
    · rintro ⟨hn, i, ⟨hwf, henc⟩, hq⟩
      refine ⟨i, ⟨hwf, hq⟩, ?_⟩
      rw [henc, BitVec.toNat_ofNat, Nat.mod_eq_of_lt (by omega)]
    · rintro ⟨i, ⟨hwf, hq⟩, rfl⟩
      exact ⟨toNat_encode_lt hwf, i, ⟨hwf, by simp⟩, hq⟩
  rw [List.countP_eq_length_filter, List.countP_eq_length_filter, hperm.length_eq, List.length_map]

/-- Settles O5: a word of 8192 or more has a bit of 31:13, and the words below are counted by their commands. -/
theorem wordCounts : Obligations.WordCounts := by
  refine ⟨fun w hw => ⟨.reservedBits, if_pos ?_⟩, ?_, ?_⟩
  · rw [ne_eq, zeroField_eq]
    omega
  · rw [countP_words (q := fun _ => true)]
    · decide +kernel
    · intro n
      cases decode (BitVec.ofNat 32 n) <;> simp [Except.isOk, Except.toBool]
  · rw [countP_words (q := Instr.legal)]
    · decide +kernel
    · intro n
      cases decode (BitVec.ofNat 32 n) <;> simp

end Sys2Proof
end

section
/-! PROOFS. The pre-check (R97): the rule as written against the model's decoder and checks, and what a command does
when its checks fail and when they pass (R96). -/

namespace Sys2Proof.Machine

/-! ### The model's checks -/

/-- The checks 2 to 4 of a command in `EXEC`, in R97's order. -/
def preChecks (i : Instr) (s : State) : List ErrKind :=
  match i with
  | .b32enc => [lengthCheck s.ilen Config.nIbuf]
  | .b32dec _ => [lengthCheck s.ilen Config.nIbuf]
  | .hmac alg src => [algCheck alg, lengthCheck s.klen Config.nKbuf, messageCheck src s]
  | .dtrunc digits => [digitsCheck digits, lengthCheck s.dlen Config.nDbuf]
  | .hotp alg digits => [algCheck alg, digitsCheck digits, lengthCheck s.ilen Config.nIbuf]

/-- What a command does in `EXEC` past its checks; one with no algorithm does not get there. -/
def commandBody (i : Instr) (s : State) : State :=
  match i with
  | .b32enc => b32encBody s
  | .b32dec dest => b32decBody dest s
  | .hmac (.known a) src => hmacSend a src s
  | .hmac (.unsupported _) _ => s
  | .dtrunc digits => dtruncBody digits s
  | .hotp (.known a) digits => hotpSend a digits s
  | .hotp (.unsupported _) _ => s

/-- In `EXEC` every command is its checks and then its body (R96). -/
theorem exec_eq_preChecked {s : State} (hp : s.phase = .exec) (i : Instr) :
    exec i s = preChecked (preChecks i s) (commandBody i) s := by
  cases i with
  | hmac alg src =>
    simp only [exec, execHmac, hp]
    cases alg <;> rfl
  | hotp alg digits =>
    simp only [exec, execHotp, hp]
    cases alg <;> rfl
  | _ => rfl

theorem preChecked_fail {checks : List ErrKind} (h : firstError checks ≠ .none) (body : State → State) (s : State) :
    preChecked checks body s = .next (complete (firstError checks) s) := if_neg h

theorem algCheck_eq_none {alg : AlgId} : algCheck alg = .none ↔ alg.legal = true := by
  cases alg <;> simp [algCheck, AlgId.legal]

theorem digitsCheck_eq_none_iff_legal {digits : Nat} : digitsCheck digits = .none ↔ digitsLegal digits = true := by
  simp [digitsCheck_eq_none, digitsLegal]

/-- A command whose checks pass is one of the 29 legal ones (R97 checks 2 and 3, R100). -/
theorem legal_of_preChecks {i : Instr} {s : State} (h : firstError (preChecks i s) = .none) : i.legal = true := by
  have hall := firstError_eq_none.mp h
  cases i with
  | b32enc => rfl
  | b32dec dest => rfl
  | hmac alg src => exact algCheck_eq_none.mp (hall _ (by simp [preChecks]))
  | dtrunc digits => exact digitsCheck_eq_none_iff_legal.mp (hall _ (by simp [preChecks]))
  | hotp alg digits =>
    exact Bool.and_eq_true_iff.mpr ⟨algCheck_eq_none.mp (hall _ (by simp [preChecks])),
      digitsCheck_eq_none_iff_legal.mp (hall (digitsCheck digits) (by simp [preChecks]))⟩

/-- How the first step of a legal command ends: it waits, or completes with code 0, 1 or 6 (R182). -/
theorem commandBody_ends {i : Instr} (h : i.legal = true) (s : State) :
    (commandBody i s).phase = .wait ∨ ((commandBody i s).phase = .idle ∧ (commandBody i s).done = true ∧
      ((commandBody i s).err = 0 ∨ (commandBody i s).err = 1 ∨ (commandBody i s).err = 6)) := by
  cases i with
  | b32enc => exact .inr ⟨rfl, rfl, .inl rfl⟩
  | b32dec dest => exact .inr ⟨rfl, rfl, .inl rfl⟩
  | hmac alg src =>
    cases alg with
    | known a => exact .inl rfl
    | unsupported n => cases h
  | dtrunc digits =>
    obtain ⟨-, hbody⟩ | ⟨-, hbody⟩ := dtruncBody_cases digits s <;> simp only [commandBody, hbody]
    · exact .inr ⟨rfl, rfl, .inr (.inr rfl)⟩
    · exact .inr ⟨rfl, rfl, .inl rfl⟩
  | hotp alg digits =>
    cases alg with
    | known a =>
      obtain ⟨_, _, -, -, hbody | hbody⟩ := hotpSend_cases a digits s <;> simp only [commandBody, hbody]
      · exact .inr ⟨rfl, rfl, .inr (.inl rfl)⟩
      · exact .inl rfl
    | unsupported n => cases h

/-! ### The rule as written -/

theorem algCheck_algOfNumber (n : Nat) :
    algCheck (algOfNumber n) = if ¬(n = 0 ∨ n = 1 ∨ n = 2) then .unsupportedAlgorithm else .none := by
  obtain hlt | hle := Nat.lt_or_ge n 3
  · interval_cases n <;> rfl
  · rw [algOfNumber_of_three_le hle, if_pos (by omega)]
    rfl

theorem messageCheck_srcOfSel (sel : Nat) (s : State) :
    messageCheck (srcOfSel sel) s = if sel = 0 ∧ 256 < s.ilen.toNat then .badLength else .none := by
  by_cases hsel : sel = 0 <;> simp [srcOfSel, hsel, messageCheck, lengthCheck]

@[simp] theorem firstError_nil : firstError [] = .none := rfl

/-- The first error of a list of conditional errors is a chain of conditionals, as R97 writes it. -/
@[simp] theorem firstError_ite_cons {c : Prop} [Decidable c] {e : ErrKind} (he : e ≠ .none) (rest : List ErrKind) :
    firstError ((if c then e else .none) :: rest) = if c then e else firstError rest := by
  by_cases hc : c <;> simp [firstError, hc, he]

/-- All that `decodeOp` refuses (R97 check 1): no such operation, or an unused field that is not 0. -/
theorem decodeOp_error_cases {op alg digits sel : Nat} {e : DecodeError} (h : decodeOp op alg digits sel = .error e) :
    ¬(op = 1 ∨ op = 2 ∨ op = 3 ∨ op = 4 ∨ op = 5) ∨ ((op = 1 ∨ op = 2 ∨ op = 4) ∧ alg ≠ 0) ∨
      ((op = 1 ∨ op = 2 ∨ op = 3) ∧ digits ≠ 0) ∨ ((op = 1 ∨ op = 4 ∨ op = 5) ∧ sel ≠ 0) := by
  unfold decodeOp at h
  split at h <;> grind

theorem preCheckR97_of_decode_error {w : Word} {e : DecodeError} (h : decode w = .error e) (ilen klen dlen : Word) :
    preCheckR97 w ilen klen dlen = .illegalCommand := by
  simp only [preCheckR97, ← opField_eq, ← algField_eq, ← digitsField_eq, ← selField_eq, ← zeroField_eq]
  by_cases hzero : zeroField w = 0
  · rw [decode_of_zeroField hzero] at h
    obtain h | h | h | h := decodeOp_error_cases h <;> simp only [if_pos h, ite_self]
  · rw [if_pos hzero]

theorem preCheckR97_of_decode_ok {s : State} {i : Instr} (h : decode s.cmdw = .ok i) :
    preCheckR97 s.cmdw s.ilen s.klen s.dlen = firstError (preChecks i s) := by
  simp only [preCheckR97, ← opField_eq, ← algField_eq, ← digitsField_eq, ← selField_eq, ← zeroField_eq]
  obtain ⟨hzero, hread⟩ := decode_eq_ok_iff.mp h
  obtain ⟨hop, halg, hdigits, hsel, rfl⟩ | ⟨hop, halg, hdigits, rfl⟩ | ⟨hop, hdigits, rfl⟩ |
    ⟨hop, halg, hsel, rfl⟩ | ⟨hop, hsel, rfl⟩ := decodeOp_ok_cases hread
  · simp [hzero, hop, halg, hdigits, hsel, preChecks, lengthCheck]
  · simp [hzero, hop, halg, hdigits, preChecks, lengthCheck]
  · simp [hzero, hop, hdigits, preChecks, algCheck_algOfNumber, lengthCheck, messageCheck_srcOfSel]
  · simp [hzero, hop, halg, hsel, preChecks, digitsCheck, lengthCheck]
  · simp [hzero, hop, hsel, preChecks, algCheck_algOfNumber, digitsCheck, lengthCheck]

/-- Settles O7: both sides are the decoder's answer and the command's checks; a command past them runs its body. -/
theorem preCheckAsWritten : Obligations.PreCheckAsWritten := by
  intro s hp hs
  rw [step_of_schedule_nil hs]
  cases hd : decode s.cmdw with
  | error e =>
    rw [preCheckR97_of_decode_error hd, sequencerStep_of_decode_error hp hd]
    exact ⟨fun _ => rfl, nofun⟩
  | ok i =>
    have hstep : sequencerStep s = exec i s := by simp only [sequencerStep, hp, runCommand, hd]
    rw [preCheckR97_of_decode_ok hd, hstep]
    refine ⟨fun hfail => (exec_eq_preChecked hp i).trans (preChecked_fail hfail _ s), fun hpass => ?_⟩
    have hlegal := legal_of_preChecks hpass
    have hexec := (exec_eq_preChecked hp i).trans (preChecked_pass (firstError_eq_none.mp hpass) _ s)
    exact ⟨i, _, rfl, hlegal, hexec, hexec, commandBody_ends hlegal s⟩

end Sys2Proof.Machine
end

section
/-! PROOFS. The host script `PUT IBUF` (R102): its moves word by word, and what running them leaves in the buffer (R64,
R67). -/

namespace Sys2Proof.Machine

/-- The first word that `PUT` writes of some bytes, 0 on the lanes past their end (R102). -/
def leadingWord (bs : List Byte) : Word := joinLanes (bs.getD 0 0) (bs.getD 1 0) (bs.getD 2 0) (bs.getD 3 0)

theorem lane_leadingWord {bs : List Byte} {k : Nat} (hk : k < 4) : lane (leadingWord bs) k = bs.getD k 0 :=
  lane_joinLanes (fun j => bs.getD j 0) ⟨k, hk⟩

/-- `PUT` of some bytes writes their first word and goes on with the rest (R102). -/
theorem scriptPutFrom_of_ne_nil (reg : Nat → Reg) (w : Nat) {bs : List Byte} (h : bs ≠ []) :
    scriptPutFrom reg w bs = scriptWr (reg w) (leadingWord bs) :: scriptPutFrom reg (w + 1) (bs.drop 4) :=
  match bs, h with
  | [_], _ => rfl
  | [_, _], _ => rfl
  | [_, _, _], _ => rfl
  | _ :: _ :: _ :: _ :: _, _ => rfl

theorem hostCheck_write_ibuf {w : Nat} (hw : w < 64) : hostCheck .write (addrOf (.ibuf w)) = some (.ibuf w) :=
  hostCheck_eq_some_iff.mpr ⟨rfl, hw, fun _ => rfl⟩

/-- A run begins with a step. -/
theorem run_succ_of_step {s t : State} (h : step s = .next t) (n : Nat) :
    Sys2Proof.core.run (n + 1) s = Sys2Proof.core.run n t := by
  have hcore : Sys2Proof.core.step s = .next t := h
  simp only [Host.Core.run, hcore]

/-- `PUT IBUF` from word `w` on, by its words: the bytes stand at their indices, every byte of another word is as
before, and nothing but IBUF, the moves and the port's answer changes. -/
theorem run_scriptPutFrom_ibuf (n : Nat) {s : State} {w : Nat} {bs : List Byte} {rest : List Move}
    (hp : s.phase = .idle) (hn : (bs.length + 3) / 4 = n) (hcap : 4 * w + bs.length ≤ 256)
    (hs : s.schedule = scriptPutFrom .ibuf w bs ++ rest) :
    ∃ t, Sys2Proof.core.run n s = .next t ∧ (∀ j < bs.length, t.ibuf.byteAt (4 * w + j) = bs[j]?) ∧
      (∀ j, j < 4 * w ∨ 4 * (w + n) ≤ j → t.ibuf.byteAt j = s.ibuf.byteAt j) ∧
      t = { s with ibuf := t.ibuf, schedule := rest, response := t.response } := by
  induction n generalizing s w bs with
  | zero =>
    obtain rfl : bs = [] := List.length_eq_zero_iff.mp (by omega)
    obtain rfl : s.schedule = rest := hs
    exact ⟨s, rfl, nofun, fun _ _ => rfl, rfl⟩
  | succ n ih =>
    have hne : bs ≠ [] := by
      rintro rfl
      simp at hn
    have hpos := List.length_pos_of_ne_nil hne
    rw [scriptPutFrom_of_ne_nil _ _ hne, List.cons_append] at hs
    have hstep := step_write_of_idle hp hs (hostCheck_write_ibuf (by omega))
    have hlen : (bs.drop 4).length = bs.length - 4 := List.length_drop
    obtain ⟨t, hrun, hput, hkept, ht⟩ := ih (s := writeReg (.ibuf w) (leadingWord bs)
      { s with schedule := scriptPutFrom .ibuf (w + 1) (bs.drop 4) ++ rest, response := some .ok })
      (w := w + 1) (bs := bs.drop 4) hp (by omega) (by omega) rfl
    have hbyte : ∀ j, j < 4 * (w + 1) ∨ 4 * (w + 1 + n) ≤ j →
        t.ibuf.byteAt j = (writeBufferWord s.ibuf w (leadingWord bs)).byteAt j := hkept
    refine ⟨t, (run_succ_of_step hstep n).trans hrun, fun j hj => ?_, fun j hj => ?_, ht⟩
    · by_cases hj4 : j < 4
      · rw [hbyte _ (.inl (by omega)), byteAt_writeBufferWord, if_pos (by omega), Nat.add_sub_cancel_left,
          lane_leadingWord hj4, List.getD_eq_getElem _ _ hj, List.getElem?_eq_getElem hj]
      · have hrest := hput (j - 4) (by omega)
        rwa [List.getElem?_drop, show 4 * (w + 1) + (j - 4) = 4 * w + j by omega,
          show 4 + (j - 4) = j by omega] at hrest
    · rw [hbyte j (by omega), byteAt_writeBufferWord, if_neg (by omega)]

/-- Settles O45: `PUT` starts at word 0. -/
theorem putFillsTheBuffer : Obligations.PutFillsTheBuffer := by
  intro s bs rest hp hlen hs
  obtain ⟨t, hrun, hput, hkept, ht⟩ := run_scriptPutFrom_ibuf _ hp rfl (w := 0) (by omega) hs
  exact ⟨t, hrun, fun j hj => by simpa using hput j hj, fun j hj => hkept j (.inr (by omega)), ht⟩

end Sys2Proof.Machine
end

section
/-! PROOFS. Positional numerals and rows of bits: a number by its digits, most significant first, and what a group of bits
cut out of a row spells. -/

namespace Sys2Proof.Machine

/-! ### Numerals -/

/-- `numeral` is the library's `ofDigits`, which reads the least significant digit first. -/
theorem numeral_eq_ofDigits (base : Nat) (ds : List Nat) : numeral base ds = Nat.ofDigits base ds.reverse := by
  simp [numeral, Nat.ofDigits_eq_foldr, Nat.mul_comm, Nat.add_comm]

theorem numeral_append (base : Nat) (xs ys : List Nat) :
    numeral base (xs ++ ys) = numeral base xs * base ^ ys.length + numeral base ys := by
  simp [numeral_eq_ofDigits, Nat.ofDigits_append, Nat.mul_comm, Nat.add_comm]

theorem numeral_concat (base : Nat) (ds : List Nat) (d : Nat) : numeral base (ds ++ [d]) = numeral base ds * base + d := by
  simp [numeral]

theorem numeral_lt {base : Nat} (hbase : 1 < base) {ds : List Nat} (h : ∀ d ∈ ds, d < base) :
    numeral base ds < base ^ ds.length := by
  rw [numeral_eq_ofDigits, ← List.length_reverse]
  exact Nat.ofDigits_lt_base_pow_length hbase fun d hd => h d (List.mem_reverse.mp hd)

/-- The last `m` digits of `n` in base `base`, the most significant first. -/
def lastDigits (base m n : Nat) : List Nat := (List.range m).map fun i => n / base ^ (m - 1 - i) % base

@[simp] theorem lastDigits_length (base m n : Nat) : (lastDigits base m n).length = m := by simp [lastDigits]

theorem lastDigits_getElem? (base n : Nat) {m i : Nat} (hi : i < m) :
    (lastDigits base m n)[i]? = some (n / base ^ (m - 1 - i) % base) := by
  simp [lastDigits, hi]

theorem lastDigits_lt {base m n d : Nat} (hbase : 0 < base) (h : d ∈ lastDigits base m n) : d < base := by
  obtain ⟨i, -, rfl⟩ := List.mem_map.mp h
  exact Nat.mod_lt _ hbase

/-- The last digit is the remainder by the base; the digits before it are those of the quotient. -/
theorem lastDigits_succ (base m n : Nat) : lastDigits base (m + 1) n = lastDigits base m (n / base) ++ [n % base] := by
  have hdigit : ∀ i ∈ List.range m, n / base ^ (m - i) % base = n / base / base ^ (m - 1 - i) % base := fun i hi => by
    have hlt : i < m := List.mem_range.mp hi
    rw [Nat.div_div_eq_div_mul, ← Nat.pow_succ', show (m - 1 - i).succ = m - i by omega]
  simpa [lastDigits, List.range_succ] using hdigit

/-- The number the last `m` digits of `n` spell. -/
theorem numeral_lastDigits (base m n : Nat) : numeral base (lastDigits base m n) = n % base ^ m := by
  induction m generalizing n with
  | zero => simp [lastDigits, numeral, Nat.mod_one]
  | succ m ih =>
    rw [lastDigits_succ, numeral_concat, ih, Nat.pow_succ', Nat.mod_mul, Nat.mul_comm, Nat.add_comm]

/-- The digits of the number that some digits spell. -/
theorem lastDigits_numeral {base : Nat} {ds : List Nat} (h : ∀ d ∈ ds, d < base) :
    lastDigits base ds.length (numeral base ds) = ds := by
  induction ds using List.reverseRecOn with
  | nil => rfl
  | append_singleton ds d ih =>
    have hd : d < base := h d (by simp)
    have hquot : (numeral base ds * base + d) / base = numeral base ds := by
      rw [Nat.add_comm, Nat.add_mul_div_right _ _ (Nat.zero_lt_of_lt hd), Nat.div_eq_of_lt hd, Nat.zero_add]
    have hrem : (numeral base ds * base + d) % base = d := by
      rw [Nat.add_comm, Nat.add_mul_mod_self_right, Nat.mod_eq_of_lt hd]
    rw [List.length_append, List.length_singleton, lastDigits_succ, numeral_concat, hquot, hrem,
      ih fun x hx => h x (List.mem_append_left _ hx)]

/-- A shift by `k` groups of `w` bits and a mask of `w` bits select digit `k` in base `2^w`. -/
theorem shiftRight_and_mask (w k n : Nat) : (n >>> (w * k)) &&& (2 ^ w - 1) = n / (2 ^ w) ^ k % 2 ^ w := by
  rw [Nat.and_two_pow_sub_one_eq_mod, Nat.shiftRight_eq_div_pow, Nat.pow_mul]

/-! ### Rows of bits -/

theorem groupValue_eq_numeral (bits : List Bool) : groupValue bits = numeral 2 (bits.map Bool.toNat) := by
  simp [groupValue, numeral, List.foldl_map, Nat.mul_comm]

theorem groupValue_append (xs ys : List Bool) :
    groupValue (xs ++ ys) = groupValue xs * 2 ^ ys.length + groupValue ys := by
  simp [groupValue_eq_numeral, numeral_append]

theorem groupValue_lt (bits : List Bool) : groupValue bits < 2 ^ bits.length := by
  rw [groupValue_eq_numeral, ← List.length_map (f := Bool.toNat)]
  refine numeral_lt (by decide) fun d hd => ?_
  obtain ⟨b, -, rfl⟩ := List.mem_map.mp hd
  exact b.toNat_lt

theorem groupValue_replicate_false (p : Nat) : groupValue (List.replicate p false) = 0 := by
  induction p with
  | zero => rfl
  | succ p ih => rw [List.replicate_succ', groupValue_append, ih]; rfl

/-- Zero bits appended to a row shift its number left. -/
theorem groupValue_append_replicate_false (bits : List Bool) (p : Nat) :
    groupValue (bits ++ List.replicate p false) = groupValue bits * 2 ^ p := by
  rw [groupValue_append, groupValue_replicate_false, List.length_replicate, Nat.add_zero]

/-- The row's number, shifted past the bits behind a group and masked to the group's width, is the group's number. -/
theorem groupValue_middle (xs g ys : List Bool) :
    groupValue (xs ++ (g ++ ys)) / 2 ^ ys.length % 2 ^ g.length = groupValue g := by
  rw [← List.append_assoc, groupValue_append (xs ++ g), Nat.add_comm, Nat.add_mul_div_right _ _ (Nat.two_pow_pos _),
    Nat.div_eq_of_lt (groupValue_lt ys), Nat.zero_add, groupValue_append, Nat.add_comm, Nat.add_mul_mod_self_right,
    Nat.mod_eq_of_lt (groupValue_lt g)]

/-- The group of `w` bits from bit `i` of a row on (R111, R114). -/
theorem groupValue_take_drop {row : List Bool} {i w : Nat} (h : i + w ≤ row.length) :
    groupValue ((row.drop i).take w) = groupValue row / 2 ^ (row.length - (i + w)) % 2 ^ w := by
  have hrow : row = row.take i ++ ((row.drop i).take w ++ (row.drop i).drop w) := by
    rw [List.take_append_drop, List.take_append_drop]
  have hmiddle := groupValue_middle (row.take i) ((row.drop i).take w) ((row.drop i).drop w)
  rw [← hrow, List.length_take, List.length_drop, List.length_drop, Nat.min_eq_left (by omega), Nat.sub_sub] at hmiddle
  exact hmiddle.symm

/-- The last `w` bits of `n`, the most significant first, spell `n mod 2^w`. -/
theorem groupValue_testBit (w n : Nat) :
    groupValue ((List.range w).map fun k => n.testBit (w - 1 - k)) = n % 2 ^ w := by
  rw [groupValue_eq_numeral, ← numeral_lastDigits, lastDigits, List.map_map]
  simp [Function.comp_def, Nat.toNat_testBit]

@[simp] theorem byteBits_length (b : Byte) : (byteBits b).length = 8 := by simp [byteBits]

@[simp] theorem valueBits_length (v : Nat) : (valueBits v).length = 5 := by simp [valueBits]

theorem groupValue_byteBits (b : Byte) : groupValue (byteBits b) = b.toNat :=
  (groupValue_testBit 8 b.toNat).trans (Nat.mod_eq_of_lt b.isLt)

theorem groupValue_valueBits {v : Nat} (h : v < 32) : groupValue (valueBits v) = v :=
  (groupValue_testBit 5 v).trans (Nat.mod_eq_of_lt h)

section Rows

variable {α : Type} {bits : α → List Bool} {w : Nat} (hbits : ∀ a, (bits a).length = w)
include hbits

/-- A row of blocks of `w` bits each. -/
theorem length_flatMap_bits (as : List α) : (as.flatMap bits).length = w * as.length := by
  simp [List.length_flatMap, hbits, Nat.mul_comm]

/-- A row of blocks of `w` bits spells the numeral in base `2^w` of the numbers its blocks spell. -/
theorem groupValue_flatMap (as : List α) :
    groupValue (as.flatMap bits) = numeral (2 ^ w) (as.map fun a => groupValue (bits a)) := by
  induction as using List.reverseRecOn with
  | nil => rfl
  | append_singleton as a ih =>
    rw [List.flatMap_append, List.flatMap_singleton, groupValue_append, ih, hbits, List.map_append, List.map_singleton,
      numeral_concat]

end Rows

theorem groupValue_flatMap_byteBits (b : List Byte) :
    groupValue (b.flatMap byteBits) = numeral 256 (b.map BitVec.toNat) := by
  have hrow := groupValue_flatMap byteBits_length b
  rwa [funext groupValue_byteBits] at hrow

theorem groupValue_flatMap_valueBits {vs : List Nat} (h : ∀ v ∈ vs, v < 32) :
    groupValue (vs.flatMap valueBits) = numeral 32 vs := by
  have hvs : (vs.map fun v => groupValue (valueBits v)) = vs :=
    (List.map_congr_left fun v hv => groupValue_valueBits (h v hv)).trans (List.map_id' vs)
  have hrow := groupValue_flatMap valueBits_length vs
  rwa [hvs] at hrow

end Sys2Proof.Machine
end

section
/-! PROOFS. Base32 (R110 to R117): the alphabet, the two functions as changes of base, the rules in the words of R111 and
R114, the round trip, and the commands `B32ENC` and `B32DEC`. -/

namespace Sys2Proof.Machine

/-! ### The alphabet -/

theorem charval_lt {c : Byte} {v : Nat} (h : charval c = some v) : v < 32 := by
  unfold charval at h
  split_ifs at h with hupper hlower hdigit <;> obtain rfl := Option.some.inj h <;> omega

theorem charval_sym {v : Nat} (h : v < 32) : charval (sym v) = some v := by
  have htable : ∀ v < 32, charval (sym v) = some v := by decide
  exact htable v h

theorem toNat_lowerCase {c : Byte} (h : 0x41 ≤ c.toNat ∧ c.toNat ≤ 0x5A) : (lowerCase c).toNat = c.toNat + 0x20 := by
  rw [lowerCase, if_pos h]
  bv_omega

/-- The decoder takes lower case as upper case (R113). -/
@[simp] theorem charval_lowerCase (c : Byte) : charval (lowerCase c) = charval c := by
  by_cases h : 0x41 ≤ c.toNat ∧ c.toNat ≤ 0x5A
  · have hlower := toNat_lowerCase h
    have hvalue : (lowerCase c).toNat - 0x61 = c.toNat - 0x41 := by omega
    rw [charval, if_neg (by omega), if_pos (by omega), hvalue, charval, if_pos h]
  · rw [lowerCase, if_neg h]

/-- Settles O12: the four facts about the alphabet, the last by the table of all bytes. -/
theorem charvalInvertsSym : Obligations.CharvalInvertsSym :=
  ⟨fun _ => charval_sym, charval_lowerCase, fun _ _ => charval_lt, by decide +kernel⟩

/-! ### The two functions as changes of base -/

/-- `b32enc` spells the number of the bytes, its last group filled with zero bits, in base 32 (R111). -/
theorem b32enc_eq (b : List Byte) : b32enc b = (lastDigits 32 ((8 * b.length + 4) / 5)
    (numeral 256 (b.map BitVec.toNat) * 2 ^ (5 * ((8 * b.length + 4) / 5) - 8 * b.length))).map sym := by
  simp only [b32enc, lastDigits, List.map_map, ← Nat.shiftLeft_eq]
  exact List.map_congr_left fun j _ => congrArg sym (shiftRight_and_mask 5 _ _)

/-- `b32dec` spells the number of the values, the leftover bits dropped, in base 256 (R114). -/
theorem b32dec_eq (t : List Byte) : b32dec t = (lastDigits 256 (5 * (t.filterMap charval).length / 8)
    (numeral 32 (t.filterMap charval) /
      2 ^ (5 * (t.filterMap charval).length - 8 * (5 * (t.filterMap charval).length / 8)))).map (BitVec.ofNat 8) := by
  simp only [b32dec, lastDigits, List.map_map, ← Nat.shiftRight_eq_div_pow]
  exact List.map_congr_left fun i _ => congrArg (BitVec.ofNat 8) (shiftRight_and_mask 8 _ _)

/-- `b32dec` reads the values of its text alone. -/
theorem b32dec_congr {t u : List Byte} (h : t.filterMap charval = u.filterMap charval) : b32dec t = b32dec u := by
  rw [b32dec, h, b32dec]

theorem charval_values_lt (t : List Byte) : ∀ v ∈ t.filterMap charval, v < 32 := fun v hv => by
  obtain ⟨c, -, hc⟩ := List.mem_filterMap.mp hv
  exact charval_lt hc

/-! ### The rules in words -/

/-- Settles O13: group `j` of the row is digit `j` in base 32 of the number the row spells. -/
theorem encodeGroupsTheBits : Obligations.EncodeGroupsTheBits := by
  intro b m row
  have hrow : row.length = 5 * m := by
    rw [List.length_append, length_flatMap_bits byteBits_length, List.length_replicate]
    omega
  refine ⟨b32enc_length b, hrow, fun j hj => ?_⟩
  have hgroup := groupValue_take_drop (row := row) (i := 5 * j) (w := 5) (by omega)
  rw [hrow, show 5 * m - (5 * j + 5) = 5 * (m - 1 - j) by omega, Nat.pow_mul, groupValue_append_replicate_false,
    groupValue_flatMap_byteBits] at hgroup
  rw [hgroup, b32enc_eq, List.getElem?_map, lastDigits_getElem? _ _ hj]
  rfl

/-- Settles O14: group `i` of the row is digit `i` in base 256 of the number the row spells, past the leftover bits. -/
theorem decodeRegroupsTheBits : Obligations.DecodeRegroupsTheBits := by
  intro t vs m row
  have hrow : row.length = 5 * vs.length := length_flatMap_bits valueBits_length vs
  refine ⟨b32dec_length t, hrow, fun i hi => ?_⟩
  have hgroup := groupValue_take_drop (row := row) (i := 8 * i) (w := 8) (by omega)
  rw [hrow, show 5 * vs.length - (8 * i + 8) = 5 * vs.length - 8 * m + 8 * (m - 1 - i) by omega, Nat.pow_add,
    ← Nat.div_div_eq_div_mul, Nat.pow_mul, groupValue_flatMap_valueBits (charval_values_lt t)] at hgroup
  rw [hgroup, b32dec_eq, List.getElem?_map, lastDigits_getElem? _ _ hi]
  rfl

/-! ### The round trip -/

theorem filterMap_charval_map_sym {vs : List Nat} (h : ∀ v ∈ vs, v < 32) : (vs.map sym).filterMap charval = vs := by
  rw [List.filterMap_map, List.filterMap_congr (f := charval ∘ sym) (g := some) fun v hv => charval_sym (h v hv),
    List.filterMap_some]

theorem toNat_bytes_lt (b : List Byte) : ∀ d ∈ b.map BitVec.toNat, d < 256 := fun d hd => by
  obtain ⟨c, -, rfl⟩ := List.mem_map.mp hd
  exact c.isLt

theorem numeral_bytes_lt (b : List Byte) : numeral 256 (b.map BitVec.toNat) < 2 ^ (8 * b.length) := by
  have hlt := numeral_lt (by decide) (toNat_bytes_lt b)
  rwa [List.length_map, show 256 = 2 ^ 8 from rfl, ← Nat.pow_mul] at hlt

/-- The values of an encoding spell the number of the bytes with the fill; decoding drops the fill and spells the bytes. -/
theorem b32dec_b32enc (b : List Byte) : b32dec (b32enc b) = b := by
  set m := (8 * b.length + 4) / 5 with hm
  set p := 5 * m - 8 * b.length with hp
  have hvalues : (b32enc b).filterMap charval = lastDigits 32 m (numeral 256 (b.map BitVec.toNat) * 2 ^ p) := by
    rw [b32enc_eq, filterMap_charval_map_sym fun v hv => lastDigits_lt (by decide) hv]
  have hfit : numeral 256 (b.map BitVec.toNat) * 2 ^ p < 32 ^ m := by
    rw [show 32 = 2 ^ 5 from rfl, ← Nat.pow_mul, show 5 * m = 8 * b.length + p by omega, Nat.pow_add]
    exact Nat.mul_lt_mul_of_pos_right (numeral_bytes_lt b) (Nat.two_pow_pos p)
  have hdigits : lastDigits 256 b.length (numeral 256 (b.map BitVec.toNat)) = b.map BitVec.toNat := by
    simpa using lastDigits_numeral (toNat_bytes_lt b)
  rw [b32dec_eq, hvalues, lastDigits_length, numeral_lastDigits, Nat.mod_eq_of_lt hfit,
    show 5 * m / 8 = b.length by omega, Nat.mul_div_cancel _ (Nat.two_pow_pos p), hdigits, List.map_map]
  simp [Function.comp_def]

/-- Settles O15: lower case and skipped bytes do not change the values; `=` decodes to nothing. -/
theorem base32RoundTrip : Obligations.Base32RoundTrip := by
  refine ⟨b32dec_b32enc, fun b => ?_, fun b t ht => ?_, [0x3D], by decide⟩
  · have hvalues : ((b32enc b).map lowerCase).filterMap charval = (b32enc b).filterMap charval := by
      simp [List.filterMap_map]
    rw [b32dec_congr hvalues, b32dec_b32enc]
  · have hvalues : (t.filter fun c => (charval c).isSome).filterMap charval = t.filterMap charval := by
      rw [List.filterMap_filter]
      exact List.filterMap_congr fun c _ => by cases charval c <;> rfl
    rw [← b32dec_congr hvalues, ht, b32dec_b32enc]

/-- Settles O16: the bounds follow from the lengths. -/
theorem base32Lengths : Obligations.Base32Lengths := by
  refine ⟨fun b => ⟨b32enc_length b, fun hb => ?_⟩, fun t => ⟨b32dec_length t, fun ht => ?_⟩⟩
  · rw [b32enc_length]
    omega
  · have hlen := b32dec_length_le t
    omega

/-! ### The commands -/

theorem exec_b32enc_of_ilen_le {s : State} (h : s.ilen.toNat ≤ 256) : exec .b32enc s =
    .next (complete .none (writeObuf (b32enc (inputBytes s)) (spend s.ilen.toNat (clearObuf s)))) :=
  preChecked_pass (by simpa using lengthCheck_eq_none.mpr h) b32encBody s

theorem exec_b32dec_of_ilen_le {s : State} (h : s.ilen.toNat ≤ 256) (dest : DecDest) : exec (.b32dec dest) s =
    .next (complete .none
      (writeDecoded dest (b32dec (inputBytes s)) (spend s.ilen.toNat (clearDest (.b32dec dest) s)))) := by
  have hbody : exec (.b32dec dest) s = .next (b32decBody dest s) :=
    preChecked_pass (by simpa using lengthCheck_eq_none.mpr h) _ _
  rw [hbody, b32decBody, inputBytes_clearDest, clearDest_ilen]

/-- Settles O17: past its check `B32ENC` writes the encoding, whose length fits `OLEN`. -/
theorem b32encEncodes : Obligations.B32encEncodes := by
  intro s _ hilen
  have hlen : (b32enc (inputBytes s)).length = (8 * s.ilen.toNat + 4) / 5 := by rw [b32enc_length, inputBytes_length]
  exact ⟨_, exec_b32enc_of_ilen_le hilen, (lengthWord_toNat (by omega)).trans hlen, byteAt_ofBytes _, rfl⟩

/-- Settles O18: past its check `B32DEC` writes the decoding, whose length fits the register of either destination. -/
theorem b32decDecodes : Obligations.B32decDecodes := by
  intro s _ hilen
  have hlen := b32dec_length_le (inputBytes s)
  rw [inputBytes_length] at hlen
  have hword := lengthWord_toNat (n := (b32dec (inputBytes s)).length) (by omega)
  exact ⟨⟨_, exec_b32dec_of_ilen_le hilen .obuf, hword, byteAt_ofBytes _, rfl⟩,
    ⟨_, exec_b32dec_of_ilen_le hilen .kbuf, hword, byteAt_ofBytes _, rfl⟩⟩

end Sys2Proof.Machine
end

section
/-! PROOFS. The HMAC core's channel and the command `HMAC` (R130 to R137): the counter's bytes, what each of the two stages
leaves, and the core's step between them. -/

namespace Sys2Proof.Machine

/-! ### The counter's bytes (R134) -/

/-- Byte `j` is bits `63-8j` to `56-8j` of the counter. -/
theorem ctrBytes_eq (c : BitVec 64) : ctrBytes c = (List.range 8).map fun j => c.extractLsb' (8 * (7 - j)) 8 := by
  refine List.map_congr_left fun j _ => BitVec.eq_of_toNat_eq ?_
  rw [BitVec.toNat_ofNat, BitVec.extractLsb'_toNat, Nat.and_two_pow_sub_one_eq_mod _ 8, Nat.mod_mod]

/-- The counter's bytes are its eight digits in base 256. -/
theorem map_toNat_ctrBytes (c : BitVec 64) : (ctrBytes c).map BitVec.toNat = lastDigits 256 8 c.toNat := by
  rw [ctrBytes_eq, List.map_map]
  refine List.map_congr_left fun j _ => ?_
  rw [Function.comp_apply, BitVec.extractLsb'_toNat, Nat.shiftRight_eq_div_pow, Nat.pow_mul]

/-- Settles O19: the number of the bytes is the numeral of the counter's digits, and the counter has no more than eight. -/
theorem counterBytesBigEndian : Obligations.CounterBytesBigEndian := by
  refine fun c => ⟨ctrBytes_length c, fun j hj => by simp [ctrBytes_eq, hj], ?_⟩
  rw [map_toNat_ctrBytes, numeral_lastDigits]
  exact Nat.mod_eq_of_lt c.isLt

/-! ### Stage 1: the request is sent (R135) -/

theorem messageCheck_eq_none {src : MsgSrc} {s : State} :
    messageCheck src s = .none ↔ (src = .ibuf → s.ilen.toNat ≤ 256) := by
  cases src with
  | ibuf => simp [messageCheck, lengthCheck_eq_none]
  | ctr => simp [messageCheck]

/-- `HMAC` past its checks runs stage 1 (R97, R135). -/
theorem exec_hmac_of_lengths_le {s : State} (hp : s.phase = .exec) (a : Alg) {src : MsgSrc} (hklen : s.klen.toNat ≤ 256)
    (hilen : src = .ibuf → s.ilen.toNat ≤ 256) : exec (.hmac (.known a) src) s = .next (hmacSend a src s) := by
  have hkey : lengthCheck s.klen Config.nKbuf = .none := lengthCheck_eq_none.mpr hklen
  have hmsg : messageCheck src s = .none := messageCheck_eq_none.mpr hilen
  exact (exec_eq_preChecked hp _).trans (preChecked_pass (by simp [preChecks, algCheck, hkey, hmsg]) _ s)

/-- What stage 1 leaves (R135): the request, whose message takes its draws after the key's (log entry 15), and DBUF and
`DLEN` cleared. -/
theorem hmacSend_eq (a : Alg) (src : MsgSrc) (s : State) :
    hmacSend a src s = sendRequest ⟨a, keyBytes s, messageBytes src (spend s.klen.toNat s)⟩
      (spend (messageDraws src s) (spend s.klen.toNat (clearDbuf s))) := by
  cases src <;> rfl

/-- Settles O20: the request's bytes are what the buffers' reads show. -/
theorem hmacSendsItsRequest : Obligations.HmacSendsItsRequest := by
  intro s a src hp hklen hilen
  refine ⟨_, keyBytes s, messageBytes src (spend s.klen.toNat s),
    (exec_hmac_of_lengths_le hp a hklen hilen).trans (congrArg _ (hmacSend_eq a src s)), rfl, keyBytes_length s,
    fun j b hj hb => readBytes_getElem?_of_byteAt hb hj _, ?_, ?_, fun j => byteAt_nil j, rfl⟩
  · rintro rfl
    rfl
  · rintro rfl
    exact ⟨inputBytes_length _, fun j b hj hb => readBytes_getElem?_of_byteAt hb hj _⟩

/-! ### Stage 2: the answer is taken (R137) -/

section Answered

variable {s : State} (hp : s.phase = .wait) (alg : AlgId) (src : MsgSrc)
include hp

/-- With an answer on the channel `HMAC` in `WAIT` takes it off and stores it. -/
theorem exec_hmac_of_resp {x : Answer} (hx : s.chan = .resp x) :
    exec (.hmac alg src) s = .next (hmacStore x (consumeAnswer s)) := by
  simp only [exec, execHmac, hp, hmacTake, hx]

/-- An answer that fits DBUF completes `HMAC` with its bytes there. -/
theorem exec_hmac_of_digest {n : Fin 128} {d : Vector Byte 64} (hx : s.chan = .resp (.ok n d)) (hn : n.val ≤ 64) :
    exec (.hmac alg src) s =
      .next (complete .none (writeDbuf (d.toList.take n.val) (consumeAnswer s))) := by
  rw [exec_hmac_of_resp hp alg src hx, hmacStore, if_neg (Nat.not_lt.mpr hn)]

end Answered

/-- The length register of a stored digest. -/
theorem dlenWord_toNat (d : Vector Byte 64) {n : Fin 128} (hn : n.val ≤ 64) :
    (BitVec.ofNat 32 (d.toList.take n.val).length).toNat = n.val := by
  rw [digest_length n d (Nat.not_lt.mpr hn), lengthWord_toNat (by omega)]

/-- Settles O21: by the answer, `unavailable`, too long, or a digest that DBUF takes. -/
theorem hmacTakesTheAnswer : Obligations.HmacTakesTheAnswer := by
  refine fun s alg src hp => ⟨fun hx => exec_hmac_of_resp hp alg src hx, fun n d hx hn => ?_, fun n d hx hn =>
    ⟨_, exec_hmac_of_digest hp alg src hx hn, dlenWord_toNat d hn, fun j => ?_, rfl⟩⟩
  · rw [exec_hmac_of_resp hp alg src hx, hmacStore, if_pos hn]
    rfl
  · simp [List.getElem?_take]

theorem outlen_le (a : Alg) : outlen a ≤ 64 := by
  cases a <;> decide

/-- Settles O22: a conforming digest fits DBUF, and the bytes stored are its `outlen` first, which are `hmac`'s. -/
theorem conformingAnswerGivesTheDigest : Obligations.ConformingAnswerGivesTheDigest := by
  rintro s a src r x hp hx rfl hconf hne
  cases x with
  | unavailable => exact absurd rfl hne
  | ok n d =>
    obtain ⟨hlen, hdigest⟩ := hconf
    have hn : n.val ≤ 64 := hlen ▸ outlen_le r.alg
    refine ⟨_, exec_hmac_of_digest hp _ src hx hn, rfl, rfl, (dlenWord_toNat d hn).trans hlen, fun j => ?_⟩
    rw [complete_dbuf, writeDbuf_dbuf, byteAt_ofBytes, hlen, hdigest]

/-! ### The core's step (R136) -/

theorem coreRespond_of_req {s : State} {r : Request} (h : s.chan = .req r) (x : Answer) :
    coreRespond x s = { s with chan := .resp x } := by
  rw [coreRespond, h]

/-- Settles O23: the move lined up is the core's, and the request enables it. -/
theorem coreAnswersTheRequest : Obligations.CoreAnswersTheRequest := by
  intro s r x rest hs hr
  rw [step_of_schedule_cons hs, makeMove, coreRespond_of_req (s := { s with schedule := rest }) hr]

end Sys2Proof.Machine
end

section
/-! PROOFS. Dynamic truncation and the command `DTRUNC` (R150 to R154): where the unit reads, the number of its four
bytes, the code and its text, and what the command leaves. -/

namespace Sys2Proof.Machine

/-! ### The offset and the value (R150) -/

theorem byteOf_of_getElem? {d : List Byte} {i : Nat} {b : Byte} (h : d[i]? = some b) : byteOf d i = b := by
  rw [byteOf, List.getD_eq_getElem?_getD, h, Option.getD_some]

/-- The low nibble is the remainder by 16. -/
theorem dtOffset_eq (d : List Byte) : dtOffset d = (byteOf d (d.length - 1)).toNat % 16 :=
  Nat.and_two_pow_sub_one_eq_mod _ 4

theorem dtOffset_le (d : List Byte) : dtOffset d ≤ 15 := by
  rw [dtOffset_eq]
  omega

/-- A byte shifted inside the 32-bit word loses no bit (R156). -/
theorem toNat_setWidth_shiftLeft (b : Byte) {k : Nat} (hk : k ≤ 24) :
    (b.setWidth 32 <<< k).toNat = b.toNat * 2 ^ k := by
  have hfit : b.toNat * 2 ^ k < 2 ^ 32 :=
    calc b.toNat * 2 ^ k < 2 ^ 8 * 2 ^ k := Nat.mul_lt_mul_of_pos_right b.isLt (Nat.two_pow_pos k)
      _ = 2 ^ (8 + k) := (Nat.pow_add 2 8 k).symm
      _ ≤ 2 ^ 32 := Nat.pow_le_pow_right (by decide) (by omega)
  rw [BitVec.toNat_shiftLeft, BitVec.toNat_setWidth_of_le (by decide), Nat.shiftLeft_eq, Nat.mod_eq_of_lt hfit]

/-- Fields that do not overlap: their `or` is their sum (R156). -/
theorem mul_two_pow_or {k y : Nat} (h : y < 2 ^ k) (x : Nat) : x * 2 ^ k ||| y = x * 2 ^ k + y := by
  rw [← Nat.shiftLeft_eq, Nat.shiftLeft_add_eq_or_of_lt h]

/-- The four bytes from the offset as a big-endian number, the top bit cleared. -/
theorem dtValue_toNat (d : List Byte) : (dtValue d).toNat =
    (byteOf d (dtOffset d)).toNat % 128 * 2 ^ 24 + (byteOf d (dtOffset d + 1)).toNat * 2 ^ 16 +
      (byteOf d (dtOffset d + 2)).toNat * 2 ^ 8 + (byteOf d (dtOffset d + 3)).toNat := by
  have hmask : (byteOf d (dtOffset d) &&& 0x7F).toNat = (byteOf d (dtOffset d)).toNat % 128 :=
    Nat.and_two_pow_sub_one_eq_mod _ 7
  have h1 := (byteOf d (dtOffset d + 1)).isLt
  have h2 := (byteOf d (dtOffset d + 2)).isLt
  have h3 := (byteOf d (dtOffset d + 3)).isLt
  rw [dtValue, BitVec.toNat_or, BitVec.toNat_or, BitVec.toNat_or, toNat_setWidth_shiftLeft _ (by decide),
    toNat_setWidth_shiftLeft _ (by decide), toNat_setWidth_shiftLeft _ (by decide),
    BitVec.toNat_setWidth_of_le (by decide), hmask, Nat.or_assoc, Nat.or_assoc, mul_two_pow_or h3,
    mul_two_pow_or (k := 16) (by omega), mul_two_pow_or (k := 24) (by omega), ← Nat.add_assoc, ← Nat.add_assoc]

/-- Settles O26: the offset is at most 15, so the last of the four bytes is at most byte 18. -/
theorem truncationReadsInside : Obligations.TruncationReadsInside := by
  intro d h
  have hlast : byteOf d (d.length - 1) = d[d.length - 1]'(by omega) := byteOf_of_getElem? (List.getElem?_eq_getElem _)
  refine ⟨hlast ▸ dtOffset_eq d, Nat.add_le_add_right (dtOffset_le d) 3, fun b0 b1 b2 b3 h0 h1 h2 h3 => ?_,
    dtValue_lt d⟩
  rw [dtValue_toNat, byteOf_of_getElem? h0, byteOf_of_getElem? h1, byteOf_of_getElem? h2, byteOf_of_getElem? h3]

/-! ### The code (R151) -/

theorem dtCode_toNat (v : Word) (digits : Nat) : (dtCode v digits).toNat = v.toNat % 10 ^ digits :=
  lengthWord_toNat (Nat.lt_of_le_of_lt (Nat.mod_le _ _) v.isLt)

/-- Settles O27: a remainder is below its divisor and at most the value; `2^31` is below `10^10`. -/
theorem codeIsTheRemainder : Obligations.CodeIsTheRemainder := by
  intro v digits hv _ _
  refine ⟨dtCode_toNat v digits, ?_, Nat.lt_of_le_of_lt (dtCode_le v digits) hv, ?_⟩
  · rw [dtCode_toNat]
    exact Nat.mod_lt _ (Nat.pow_pos (by decide))
  · rintro rfl
    exact BitVec.eq_of_toNat_eq ((dtCode_toNat v 10).trans (Nat.mod_eq_of_lt (by omega)))

/-! ### The text (R152) -/

/-- The ASCII character of a decimal digit. -/
def digitChar (n : Nat) : Byte := BitVec.ofNat 8 (0x30 + n)

theorem digitChar_toNat {n : Nat} (h : n < 10) : (digitChar n).toNat = 0x30 + n := by
  rw [digitChar, BitVec.toNat_ofNat, Nat.mod_eq_of_lt (by omega)]

/-- The text is the characters of the number's last decimal digits. -/
theorem render_eq (c digits : Nat) : render c digits = (lastDigits 10 digits c).map digitChar := by
  rw [lastDigits, List.map_map]
  rfl

theorem render_getElem? (c : Nat) {digits j : Nat} (hj : j < digits) :
    (render c digits)[j]? = some (digitChar (c / 10 ^ (digits - 1 - j) % 10)) := by
  rw [render_eq, List.getElem?_map, lastDigits_getElem? _ _ hj, Option.map_some]

/-- The digits read back from the text. -/
theorem map_sub_render (c digits : Nat) :
    ((render c digits).map fun b => b.toNat - 0x30) = lastDigits 10 digits c := by
  rw [render_eq, List.map_map]
  refine (List.map_congr_left fun n hn => ?_).trans (List.map_id' _)
  rw [Function.comp_apply, digitChar_toNat (lastDigits_lt (by decide) hn), Nat.add_sub_cancel_left]

/-- Settles O28: the digits of the text spell the number modulo `10^digits`, which is the number. -/
theorem renderSpellsTheNumber : Obligations.RenderSpellsTheNumber := by
  refine fun c digits hc => ⟨render_length c digits, fun j hj => ?_, ?_⟩
  · exact ⟨_, render_getElem? c hj, digitChar_toNat (Nat.mod_lt _ (by decide))⟩
  · rw [map_sub_render, numeral_lastDigits, Nat.mod_eq_of_lt hc]

/-! ### The command (R153) -/

section Dtrunc

variable {s : State} {digits : Nat} (hmin : 6 ≤ digits) (hmax : digits ≤ 10)
include hmin hmax

/-- `DTRUNC` past its checks runs its body (R96). -/
theorem exec_dtrunc_of_dlen_le (hdlen : s.dlen.toNat ≤ 64) : exec (.dtrunc digits) s = .next (dtruncBody digits s) :=
  preChecked_pass (by simp [digitsCheck_eq_none.mpr ⟨hmin, hmax⟩, lengthCheck_eq_none.mpr hdlen]) _ s

/-- A digest that DBUF holds and the unit accepts is truncated; `ClearDest` does not touch it. -/
theorem exec_dtrunc_of_digest (hlow : 20 ≤ s.dlen.toNat) (hhigh : s.dlen.toNat ≤ 64) :
    exec (.dtrunc digits) s = .next (complete .none
      (deriveCode (digestBytes s) digits (spend s.dlen.toNat (clearDest (.dtrunc digits) s)))) := by
  obtain ⟨-, hbody⟩ := (dtruncBody_cases digits s).resolve_left fun h => Nat.not_lt.mpr hlow h.1
  rw [exec_dtrunc_of_dlen_le hmin hmax hhigh, hbody]
  rfl

theorem exec_dtrunc_of_dlen_lt (hshort : s.dlen.toNat < 20) :
    exec (.dtrunc digits) s = .next (complete .internalInvariant (clearDest (.dtrunc digits) s)) := by
  obtain ⟨-, hbody⟩ := (dtruncBody_cases digits s).resolve_right fun h => Nat.not_lt.mpr h.1 hshort
  rw [exec_dtrunc_of_dlen_le hmin hmax (by omega), hbody]

end Dtrunc

/-- The length register of a derived code's text. -/
theorem deriveCode_olen_toNat (d : List Byte) {digits : Nat} (h : digits < 2 ^ 32) (s : State) :
    (deriveCode d digits s).olen.toNat = digits := by
  rw [deriveCode, writeObuf_olen, render_length, lengthWord_toNat h]

/-- Settles O29: the code derived from the digest is the remainder, and its text fits `OLEN`. -/
theorem dtruncDerivesTheCode : Obligations.DtruncDerivesTheCode := by
  intro s digits _ hmin hmax hlow hhigh
  refine ⟨_, exec_dtrunc_of_digest hmin hmax hlow hhigh, rfl, dtCode_toNat _ digits, ?_, byteAt_ofBytes _, ?_⟩
  · rw [complete_olen, deriveCode_olen_toNat _ (by omega)]
  · simp [State.ext_iff, deriveCode, ErrKind.code]

/-- Settles O30: a short digest completes with code 6 on the cleared destinations. -/
theorem dtruncRejectsShortDigests : Obligations.DtruncRejectsShortDigests :=
  fun _ _ _ hmin hmax hshort => ⟨_, exec_dtrunc_of_dlen_lt hmin hmax hshort, byteAt_nil, rfl⟩

end Sys2Proof.Machine
end

section
/-! PROOFS. The generate chain and the command `HOTP` (R165 to R168): what each of its two stages leaves, the code it
computes, and that the three primitive commands leave the same. -/

namespace Sys2Proof.Machine

/-! ### Stage 1: the secret is decoded (R166) -/

/-- A key fits its buffer: a text that fits IBUF decodes to at most 160 bytes (R117). -/
theorem decodedKey_length_le {s : State} (hilen : s.ilen.toNat ≤ 256) : (b32dec (inputBytes s)).length ≤ 160 := by
  have hlen := b32dec_length_le (inputBytes s)
  rw [inputBytes_length] at hlen
  omega

/-- `HOTP`'s state between storing the decoded secret and checking it: KBUF and `KLEN` the key, every other destination
cleared (R166). -/
def secretStored (s : State) : State :=
  writeKbuf (b32dec (inputBytes s)) (spend s.ilen.toNat (clearKbuf (clearDbuf (clearCode (clearObuf s)))))

theorem hotpSend_of_key_eq_nil {s : State} (hkey : b32dec (inputBytes s) = []) (a : Alg) (digits : Nat) :
    hotpSend a digits s = complete .invalidSecret (secretStored s) := by
  simp only [hotpSend, inputBytes_clearDest, clearDest_ilen, if_pos (List.length_eq_zero_iff.mpr hkey)]
  rfl

theorem hotpSend_of_key_ne_nil {s : State} (hkey : b32dec (inputBytes s) ≠ []) (a : Alg) (digits : Nat) :
    hotpSend a digits s = sendRequest ⟨a, b32dec (inputBytes s), ctrBytes s.ctr⟩ (secretStored s) := by
  simp only [hotpSend, inputBytes_clearDest, clearDest_ilen, if_neg (mt List.length_eq_zero_iff.mp hkey)]
  rfl

section Started

variable {s : State} (hp : s.phase = .exec) (a : Alg) {digits : Nat} (hmin : 6 ≤ digits) (hmax : digits ≤ 10)
  (hilen : s.ilen.toNat ≤ 256)
include hp hmin hmax hilen

/-- `HOTP` past its checks runs stage 1 (R97, R166). -/
theorem exec_hotp_of_ilen_le : exec (.hotp (.known a) digits) s = .next (hotpSend a digits s) := by
  have hdigits : digitsCheck digits = .none := digitsCheck_eq_none.mpr ⟨hmin, hmax⟩
  have hlen : lengthCheck s.ilen Config.nIbuf = .none := lengthCheck_eq_none.mpr hilen
  exact (exec_eq_preChecked hp _).trans (preChecked_pass (by simp [preChecks, algCheck, hdigits, hlen]) _ s)

theorem exec_hotp_of_key_eq_nil (hkey : b32dec (inputBytes s) = []) :
    exec (.hotp (.known a) digits) s = .next (complete .invalidSecret (secretStored s)) := by
  rw [exec_hotp_of_ilen_le hp a hmin hmax hilen, hotpSend_of_key_eq_nil hkey]

theorem exec_hotp_of_key_ne_nil (hkey : b32dec (inputBytes s) ≠ []) : exec (.hotp (.known a) digits) s =
    .next (sendRequest ⟨a, b32dec (inputBytes s), ctrBytes s.ctr⟩ (secretStored s)) := by
  rw [exec_hotp_of_ilen_le hp a hmin hmax hilen, hotpSend_of_key_ne_nil hkey]

end Started

/-- Settles O31: past the checks a key with some byte is stored and sent, and its length fits `KLEN`. -/
theorem hotpSendsItsRequest : Obligations.HotpSendsItsRequest := by
  intro s a digits hp hmin hmax hilen hkey
  have hlen := decodedKey_length_le hilen
  refine ⟨_, exec_hotp_of_key_ne_nil hp a hmin hmax hilen hkey, rfl, lengthWord_toNat (by omega), byteAt_ofBytes _,
    byteAt_nil, byteAt_nil, ?_⟩
  simp [State.ext_iff, secretStored]

/-- Settles O32: past the checks a key with no byte completes with code 1, and KBUF holds no byte of it. -/
theorem hotpRejectsEmptySecrets : Obligations.HotpRejectsEmptySecrets := by
  intro s a digits hp hmin hmax hilen hkey
  refine ⟨_, exec_hotp_of_key_eq_nil hp a hmin hmax hilen hkey, fun j => ?_, byteAt_nil, byteAt_nil, ?_⟩
  · simp [secretStored, hkey]
  · simp [State.ext_iff, secretStored, hkey, ErrKind.code]

/-! ### Stage 2: the answer is taken (R167) -/

section Answered

variable {s : State} (hp : s.phase = .wait) (alg : AlgId) (digits : Nat)
include hp

/-- With an answer on the channel `HOTP` in `WAIT` takes it off and derives the code. -/
theorem exec_hotp_of_resp {x : Answer} (hx : s.chan = .resp x) :
    exec (.hotp alg digits) s = .next (hotpDerive digits x (consumeAnswer s)) := by
  simp only [exec, execHotp, hp, hotpTake, hx]

/-- A digest that DBUF holds and the truncation accepts completes `HOTP` with its code. -/
theorem exec_hotp_of_digest {n : Fin 128} {d : Vector Byte 64} (hx : s.chan = .resp (.ok n d)) (hlow : 20 ≤ n.val)
    (hhigh : n.val ≤ 64) : exec (.hotp alg digits) s = .next (complete .none
      (deriveCode (d.toList.take n.val) digits (writeDbuf (d.toList.take n.val) (consumeAnswer s)))) := by
  rw [exec_hotp_of_resp hp alg digits hx, hotpDerive, if_neg (Nat.not_lt.mpr hhigh)]
  exact congrArg _ (if_neg (Nat.not_lt.mpr hlow))

/-- A digest too short to truncate is kept in DBUF, and `HOTP` ends in `InternalInvariant`. -/
theorem exec_hotp_of_digest_lt {n : Fin 128} {d : Vector Byte 64} (hx : s.chan = .resp (.ok n d)) (hn : n.val < 20) :
    exec (.hotp alg digits) s = .next (complete .internalInvariant
      (writeDbuf (d.toList.take n.val) (consumeAnswer s))) := by
  rw [exec_hotp_of_resp hp alg digits hx, hotpDerive, if_neg (Nat.not_lt.mpr (show n.val ≤ 64 by omega))]
  exact congrArg _ (if_pos hn)

end Answered

/-- A stored digest, byte by byte. -/
theorem byteAt_ofBytes_digest (n : Nat) (d : Vector Byte 64) (j : Nat) :
    (Memory.ofBytes (d.toList.take n)).byteAt j = if j < n then d[j]? else none := by
  simp [List.getElem?_take]

/-- Settles O33: by the answer, `unavailable`, too long, too short, or a digest whose code is derived. -/
theorem hotpTakesTheAnswer : Obligations.HotpTakesTheAnswer := by
  refine fun s alg digits hp hmin hmax => ⟨fun hx => exec_hotp_of_resp hp alg digits hx, fun n d hx hn => ?_,
    fun n d hx hn => ⟨_, exec_hotp_of_digest_lt hp alg digits hx hn, dlenWord_toNat d (by omega),
      byteAt_ofBytes_digest n.val d, rfl⟩,
    fun n d hx hlow hhigh => ⟨_, exec_hotp_of_digest hp alg digits hx hlow hhigh, dlenWord_toNat d hhigh,
      byteAt_ofBytes_digest n.val d, rfl, dtCode_toNat _ digits, ?_, byteAt_ofBytes _, rfl⟩⟩
  · rw [exec_hotp_of_resp hp alg digits hx, hotpDerive, if_pos hn]
    rfl
  · rw [complete_olen, deriveCode_olen_toNat _ (by omega)]

/-! ### The core's answer between the stages (R136) -/

/-- The core's step writes the channel alone. -/
theorem coreRespond_eq (x : Answer) (s : State) : coreRespond x s = { s with chan := (coreRespond x s).chan } := by
  unfold coreRespond
  split <;> rfl

@[simp] theorem coreRespond_phase (x : Answer) (s : State) : (coreRespond x s).phase = s.phase := by
  rw [coreRespond_eq]

@[simp] theorem coreRespond_ctr (x : Answer) (s : State) : (coreRespond x s).ctr = s.ctr := by
  rw [coreRespond_eq]

@[simp] theorem coreRespond_kbuf (x : Answer) (s : State) : (coreRespond x s).kbuf = s.kbuf := by
  rw [coreRespond_eq]

@[simp] theorem coreRespond_klen (x : Answer) (s : State) : (coreRespond x s).klen = s.klen := by
  rw [coreRespond_eq]

theorem coreRespond_chan_of_req {s : State} {r : Request} (h : s.chan = .req r) (x : Answer) :
    (coreRespond x s).chan = .resp x := by
  rw [coreRespond_of_req h]

/-! ### The code computed (R165) -/

theorem outlen_ge (a : Alg) : 20 ≤ outlen a := by
  cases a <;> decide

/-- Settles O34: a conforming digest is one the truncation accepts, and its bytes are `hmac`'s of the request sent. -/
theorem hotpComputesTheCode : Obligations.HotpComputesTheCode := by
  intro s a digits hp hmin hmax hilen hkey
  refine ⟨_, _, exec_hotp_of_key_ne_nil hp a hmin hmax hilen hkey, rfl, fun x hconf hne => ?_⟩
  cases x with
  | unavailable => exact absurd rfl hne
  | ok n d =>
    obtain ⟨hlen, hdigest⟩ := hconf
    refine ⟨_, exec_hotp_of_digest (by simp) _ digits (coreRespond_chan_of_req rfl _) (hlen ▸ outlen_ge a)
      (hlen ▸ outlen_le a), rfl, rfl, ?_, ?_, fun j => ?_⟩
    · simp [deriveCode, secretStored]
    · rw [complete_olen, deriveCode_olen_toNat _ (by omega)]
    · rw [hlen, hdigest]
      exact byteAt_ofBytes _ j

/-! ### The chain of primitive commands (R168) -/

/-- A buffer and a length register that a command wrote together read back as what it wrote. -/
theorem readBytes_lengthWord {bs : List Byte} (h : bs.length < 2 ^ 32) (d : Nat) :
    (Memory.ofBytes bs).readBytes (BitVec.ofNat 32 bs.length).toNat d = bs := by
  rw [lengthWord_toNat h, readBytes_ofBytes]

/-- The registers of R168 after a key, a digest and a digit count went through the chain. -/
structure Generated (key digest : List Byte) (digits : Nat) (t : State) : Prop where
  kbuf : t.kbuf = Memory.ofBytes key
  klen : t.klen = BitVec.ofNat 32 key.length
  dbuf : t.dbuf = Memory.ofBytes digest
  dlen : t.dlen = BitVec.ofNat 32 digest.length
  value : t.value = dtValue digest
  code : t.code = dtCode (dtValue digest) digits
  obuf : t.obuf = Memory.ofBytes (render (dtCode (dtValue digest) digits).toNat digits)
  olen : t.olen = BitVec.ofNat 32 (render (dtCode (dtValue digest) digits).toNat digits).length

/-- Where the key and the digest stand, deriving the code ends the chain. -/
theorem generated_deriveCode {key digest : List Byte} {s : State} (hkbuf : s.kbuf = Memory.ofBytes key)
    (hklen : s.klen = BitVec.ofNat 32 key.length) (hdbuf : s.dbuf = Memory.ofBytes digest)
    (hdlen : s.dlen = BitVec.ofNat 32 digest.length) (digits : Nat) :
    Generated key digest digits (complete .none (deriveCode digest digits s)) :=
  ⟨hkbuf, hklen, hdbuf, hdlen, rfl, rfl, rfl, rfl⟩

/-- A `HOTP` that runs and then waits passed its checks and sent its request (R166). -/
theorem hotp_sent_of_wait {s t : State} {a : Alg} {digits : Nat} (hp : s.phase = .exec)
    (h : exec (.hotp (.known a) digits) s = .next t) (ht : t.phase = .wait) :
    s.ilen.toNat ≤ 256 ∧ t = sendRequest ⟨a, b32dec (inputBytes s), ctrBytes s.ctr⟩ (secretStored s) := by
  obtain ⟨hwait, -⟩ | ⟨-, ⟨n, hn, -⟩ | ⟨b, hb, -, -, hilen, rfl⟩ | ⟨b, -, rfl | rfl⟩⟩ := execHotp_cases h
  · simp [hp] at hwait
  · cases hn
  · cases hb
    by_cases hkey : b32dec (inputBytes s) = []
    · simp [hotpSend_of_key_eq_nil hkey] at ht
    · exact ⟨hilen, hotpSend_of_key_ne_nil hkey a digits⟩
  · simp at ht
  · simp at ht

/-- An answered `HOTP` that ends without error took a digest of 20 to 64 bytes and derived its code (R167). -/
theorem hotp_digest_of_err_zero {s t : State} {alg : AlgId} {digits : Nat} {x : Answer} (hp : s.phase = .wait)
    (hx : s.chan = .resp x) (h : exec (.hotp alg digits) s = .next t) (herr : t.err = 0) :
    ∃ n d, x = .ok n d ∧ 20 ≤ n.val ∧ n.val ≤ 64 ∧ t = complete .none
      (deriveCode (d.toList.take n.val) digits (writeDbuf (d.toList.take n.val) (consumeAnswer s))) := by
  rw [exec_hotp_of_resp hp alg digits hx] at h
  obtain rfl := Host.Outcome.next.inj h
  have hcode : ∀ {e : ErrKind} {u : State}, e ≠ .none → hotpDerive digits x (consumeAnswer s) ≠ complete e u :=
    fun he hd => he (code_injective ((congrArg State.err hd).symm.trans herr))
  obtain ⟨-, hd⟩ | ⟨n, d, -, -, hd⟩ | ⟨n, d, -, -, hd⟩ | ⟨n, d, hok, hlow, hhigh, hd⟩ :=
    hotpDerive_cases digits x (consumeAnswer s)
  · exact absurd hd (hcode (by decide))
  · exact absurd hd (hcode (by decide))
  · exact absurd hd (hcode (by decide))
  · exact ⟨n, d, hok, hlow, hhigh, hd⟩

/-- What a `HOTP` without error did: it sent the decoded secret with the counter and took a digest through the chain. -/
theorem hotp_generated {s t u : State} {a : Alg} {digits : Nat} {x : Answer} (hp : s.phase = .exec)
    (hsend : exec (.hotp (.known a) digits) s = .next t) (hwait : t.phase = .wait)
    (htake : exec (.hotp (.known a) digits) (coreRespond x t) = .next u) (herr : u.err = 0) :
    s.ilen.toNat ≤ 256 ∧ t.chan = .req ⟨a, b32dec (inputBytes s), ctrBytes s.ctr⟩ ∧
      ∃ n d, x = .ok n d ∧ 20 ≤ n.val ∧ n.val ≤ 64 ∧
        Generated (b32dec (inputBytes s)) (d.toList.take n.val) digits u := by
  obtain ⟨hilen, rfl⟩ := hotp_sent_of_wait hp hsend hwait
  obtain ⟨n, d, hx, hlow, hhigh, rfl⟩ :=
    hotp_digest_of_err_zero (by simp) (coreRespond_chan_of_req rfl x) htake herr
  refine ⟨hilen, rfl, n, d, hx, hlow, hhigh, generated_deriveCode ?_ ?_ rfl rfl digits⟩ <;> simp [secretStored]

/-- `B32DEC` to KBUF stores the decoded text as a key (R115). -/
theorem b32dec_kbuf_stores_key {s t : State} (hilen : s.ilen.toNat ≤ 256) (h : exec (.b32dec .kbuf) s = .next t) :
    t.err = 0 ∧ t.ctr = s.ctr ∧ t.kbuf = Memory.ofBytes (b32dec (inputBytes s)) ∧
      t.klen = BitVec.ofNat 32 (b32dec (inputBytes s)).length := by
  rw [exec_b32dec_of_ilen_le hilen] at h
  obtain rfl := Host.Outcome.next.inj h
  exact ⟨rfl, rfl, rfl, rfl⟩

/-- `HMAC` on a key a command left in KBUF sends that key with the counter, and keeps it (R135). -/
theorem hmac_ctr_of_stored_key {s t : State} {a : Alg} {key : List Byte} (hp : s.phase = .exec)
    (hkbuf : s.kbuf = Memory.ofBytes key) (hklen : s.klen = BitVec.ofNat 32 key.length) (hkey : key.length ≤ 256)
    (h : exec (.hmac (.known a) .ctr) s = .next t) :
    t.chan = .req ⟨a, key, ctrBytes s.ctr⟩ ∧ t.phase = .wait ∧ t.kbuf = Memory.ofBytes key ∧
      t.klen = BitVec.ofNat 32 key.length := by
  have hfits : s.klen.toNat ≤ 256 := by
    rw [hklen, lengthWord_toNat (by omega)]
    exact hkey
  have hbytes : keyBytes s = key := by
    rw [keyBytes, hkbuf, hklen, readBytes_lengthWord (by omega)]
  rw [exec_hmac_of_lengths_le hp a (src := .ctr) hfits nofun, hmacSend_eq, hbytes] at h
  obtain rfl := Host.Outcome.next.inj h
  exact ⟨rfl, rfl, hkbuf, hklen⟩

/-- `DTRUNC` on a digest a command left in DBUF derives its code without error (R153). -/
theorem dtrunc_of_stored_digest {s t : State} {digest : List Byte} {digits : Nat} (hmin : 6 ≤ digits)
    (hmax : digits ≤ 10) (hdbuf : s.dbuf = Memory.ofBytes digest) (hdlen : s.dlen = BitVec.ofNat 32 digest.length)
    (hlow : 20 ≤ digest.length) (hhigh : digest.length ≤ 64) (h : exec (.dtrunc digits) s = .next t) :
    t = complete .none (deriveCode digest digits (spend s.dlen.toNat (clearDest (.dtrunc digits) s))) := by
  have hword : s.dlen.toNat = digest.length := by rw [hdlen, lengthWord_toNat (by omega)]
  have hbytes : digestBytes s = digest := by rw [digestBytes, hdbuf, hdlen, readBytes_lengthWord (by omega)]
  rw [exec_dtrunc_of_digest hmin hmax (hword ▸ hlow) (hword ▸ hhigh), hbytes] at h
  exact (Host.Outcome.next.inj h).symm

/-- The three commands in a row, the core answering with a digest of 20 to 64 bytes: none ends with an error, `HMAC`
sends the key that `B32DEC` left, and `DTRUNC` reads the digest that `HMAC` left. -/
theorem chain_generated {s c1 c2 c3 c4 : State} {v1 v2 v3 : Word} {a : Alg} {digits : Nat} {n : Fin 128}
    {d : Vector Byte 64} (hilen : s.ilen.toNat ≤ 256) (hmin : 6 ≤ digits) (hmax : digits ≤ 10) (hlow : 20 ≤ n.val)
    (hhigh : n.val ≤ 64) (hdec : exec (.b32dec .kbuf) (issue v1 s) = .next c1)
    (hsend : exec (.hmac (.known a) .ctr) (issue v2 c1) = .next c2)
    (htake : exec (.hmac (.known a) .ctr) (coreRespond (.ok n d) c2) = .next c3)
    (htrunc : exec (.dtrunc digits) (issue v3 c3) = .next c4) :
    c1.err = 0 ∧ c3.err = 0 ∧ c4.err = 0 ∧ c2.chan = .req ⟨a, b32dec (inputBytes s), ctrBytes s.ctr⟩ ∧
      Generated (b32dec (inputBytes s)) (d.toList.take n.val) digits c4 := by
  have hkey := decodedKey_length_le hilen
  have hdigest := digest_length n d (Nat.not_lt.mpr hhigh)
  obtain ⟨herr, hctr, hkbuf, hklen⟩ := b32dec_kbuf_stores_key (s := issue v1 s) hilen hdec
  obtain ⟨hchan, hwait, hkbuf, hklen⟩ :=
    hmac_ctr_of_stored_key (s := issue v2 c1) rfl hkbuf hklen (Nat.le_trans hkey (by decide)) hsend
  rw [exec_hmac_of_digest (by rwa [coreRespond_phase]) _ _ (coreRespond_chan_of_req hchan _) hhigh] at htake
  obtain rfl := Host.Outcome.next.inj htake
  obtain rfl := dtrunc_of_stored_digest hmin hmax (digest := d.toList.take n.val) rfl rfl (hdigest.symm ▸ hlow)
    (hdigest.symm ▸ hhigh) htrunc
  have hreq : c2.chan = .req ⟨a, b32dec (inputBytes s), ctrBytes s.ctr⟩ := by
    rw [hchan, issue_ctr, hctr]
    rfl
  refine ⟨herr, rfl, rfl, hreq, generated_deriveCode ?_ ?_ rfl rfl digits⟩
  · exact (coreRespond_kbuf _ c2).trans hkbuf
  · exact (coreRespond_klen _ c2).trans hklen

/-- Settles O35: both ways send the one request and take the one digest, which with the key fix the eight registers. -/
theorem hotpEqualsTheChain : Obligations.HotpEqualsTheChain := by
  intro s h1 h2 c1 c2 c3 c4 a digits x _ hdigits hsend hwait htake herr hdec hmac1 hmac2 htrunc
  obtain ⟨hmin, hmax⟩ := digitsCheck_eq_none.mp (digitsCheck_eq_none_iff_legal.mpr hdigits)
  obtain ⟨hilen, hreq, n, d, rfl, hlow, hhigh, hgen⟩ := hotp_generated rfl hsend hwait htake herr
  obtain ⟨herr1, herr3, herr4, hchan, hgen'⟩ := chain_generated hilen hmin hmax hlow hhigh hdec hmac1 hmac2 htrunc
  exact ⟨herr1, herr3, herr4, hchan.trans hreq.symm, hgen'.kbuf.trans hgen.kbuf.symm, hgen'.klen.trans hgen.klen.symm,
    hgen'.dbuf.trans hgen.dbuf.symm, hgen'.dlen.trans hgen.dlen.symm, hgen'.value.trans hgen.value.symm,
    hgen'.code.trans hgen.code.symm, hgen'.obuf.trans hgen.obuf.symm, hgen'.olen.trans hgen.olen.symm⟩

end Sys2Proof.Machine
end

section
/-! PROOFS. How commands end with an error (R180 to R191): the codes each can end with, and what an error leaves of the data
and of the results. -/

namespace Sys2Proof.Machine

/-! ### The codes of a command's row (R182) -/

/-- `HMAC`'s stage 2 ends with code 0, 5 or 6 (R137). -/
theorem hmacStore_err (x : Answer) (s : State) :
    (hmacStore x s).err = 0 ∨ (hmacStore x s).err = 5 ∨ (hmacStore x s).err = 6 := by
  obtain ⟨-, hx⟩ | ⟨n, d, -, -, hx⟩ | ⟨n, d, -, -, hx⟩ := hmacStore_cases x s <;> rw [hx]
  · exact .inr (.inl rfl)
  · exact .inr (.inr rfl)
  · exact .inl rfl

/-- `HOTP`'s stage 2 stores its result without an error, or ends with code 5 or 6 and writes nothing but DBUF and `DLEN`
(R167). -/
theorem hotpDerive_err (digits : Nat) (x : Answer) (s : State) :
    (hotpDerive digits x s).err = 0 ∨
      (((hotpDerive digits x s).err = 5 ∨ (hotpDerive digits x s).err = 6) ∧
        (hotpDerive digits x s).value = s.value ∧ (hotpDerive digits x s).code = s.code ∧
        (hotpDerive digits x s).olen = s.olen ∧ (hotpDerive digits x s).klen = s.klen ∧
        (hotpDerive digits x s).kbuf = s.kbuf) := by
  obtain ⟨-, hx⟩ | ⟨n, d, -, -, hx⟩ | ⟨n, d, -, -, hx⟩ | ⟨n, d, -, -, -, hx⟩ := hotpDerive_cases digits x s <;> rw [hx]
  · exact .inr ⟨.inl rfl, rfl, rfl, rfl, rfl, rfl⟩
  · exact .inr ⟨.inr rfl, rfl, rfl, rfl, rfl, rfl⟩
  · exact .inr ⟨.inr rfl, rfl, rfl, rfl, rfl, rfl⟩
  · exact .inl rfl

/-- A command that ends from `EXEC` or `WAIT` ends with a code of its row: by its checks, its body and, for `HMAC` and `HOTP`,
its stage 2. -/
theorem exec_err_mem_endCodes {i : Instr} {s t : State} (hbusy : s.phase ≠ .idle) (h : exec i s = .next t)
    (hidle : t.phase = .idle) : t.err ∈ endCodes i := by
  cases i with
  | b32enc =>
    obtain ⟨-, rfl⟩ | rfl := execB32enc_cases h <;> simp [b32encBody, endCodes, ErrKind.code]
  | b32dec dest =>
    obtain ⟨-, rfl⟩ | rfl := execB32dec_cases h <;> simp [b32decBody, endCodes, ErrKind.code]
  | hmac alg src =>
    obtain ⟨-, rfl⟩ | ⟨-, ⟨n, -, rfl⟩ | ⟨a, -, -, -, rfl⟩ | ⟨a, -, rfl⟩⟩ := execHmac_cases h
    · obtain ⟨-, ht⟩ | ⟨x, -, ht⟩ := hmacTake_cases s <;> rw [ht] at hidle ⊢
      · exact absurd hidle hbusy
      · obtain he | he | he := hmacStore_err x (consumeAnswer s) <;> simp [he, endCodes]
    · simp [endCodes, ErrKind.code]
    · simp [hmacSend] at hidle
    · simp [endCodes, ErrKind.code]
  | dtrunc digits =>
    obtain ⟨-, -, -, rfl⟩ | rfl | rfl := execDtrunc_cases h
    · obtain ⟨-, hbody⟩ | ⟨-, hbody⟩ := dtruncBody_cases digits s <;> simp [hbody, endCodes, ErrKind.code]
    · simp [endCodes, ErrKind.code]
    · simp [endCodes, ErrKind.code]
  | hotp alg digits =>
    obtain ⟨-, rfl⟩ | ⟨-, ⟨n, -, rfl⟩ | ⟨a, -, -, -, -, rfl⟩ | ⟨a, -, rfl | rfl⟩⟩ := execHotp_cases h
    · obtain ⟨-, ht⟩ | ⟨x, -, ht⟩ := hotpTake_cases digits s <;> rw [ht] at hidle ⊢
      · exact absurd hidle hbusy
      · obtain he | ⟨he | he, -⟩ := hotpDerive_err digits x (consumeAnswer s) <;> simp [he, endCodes]
    · simp [endCodes, ErrKind.code]
    · obtain ⟨key, u, -, -, ht | ht⟩ := hotpSend_cases a digits s
      · simp [ht, endCodes, ErrKind.code]
      · simp [ht] at hidle
    · simp [endCodes, ErrKind.code]
    · simp [endCodes, ErrKind.code]

/-! ### The codes of a conforming answer (R132, R182) -/

/-- A conforming digest is no longer than DBUF and no shorter than the truncation needs. -/
theorem conforming_length {r : Request} {n : Fin 128} {d : Vector Byte 64} (h : Conforming r (.ok n d)) :
    20 ≤ n.val ∧ n.val ≤ 64 := by
  obtain ⟨hlen, -⟩ := h
  exact ⟨hlen ▸ outlen_ge r.alg, hlen ▸ outlen_le r.alg⟩

theorem hmacStore_err_of_conforming {r : Request} {x : Answer} (h : Conforming r x) (s : State) :
    (hmacStore x s).err = 0 ∨ (hmacStore x s).err = 5 := by
  obtain ⟨-, hx⟩ | ⟨n, d, rfl, hlong, -⟩ | ⟨n, d, -, -, hx⟩ := hmacStore_cases x s
  · exact .inr (by rw [hx]; rfl)
  · exact absurd (conforming_length h).2 (Nat.not_le.mpr hlong)
  · exact .inl (by rw [hx]; rfl)

theorem hotpDerive_err_of_conforming {r : Request} {x : Answer} (h : Conforming r x) (digits : Nat) (s : State) :
    (hotpDerive digits x s).err = 0 ∨ (hotpDerive digits x s).err = 5 := by
  obtain ⟨-, hx⟩ | ⟨n, d, rfl, hlong, -⟩ | ⟨n, d, rfl, hshort, -⟩ | ⟨n, d, -, -, -, hx⟩ := hotpDerive_cases digits x s
  · exact .inr (by rw [hx]; rfl)
  · exact absurd (conforming_length h).2 (Nat.not_le.mpr hlong)
  · exact absurd (conforming_length h).1 (Nat.not_le.mpr hshort)
  · exact .inl (by rw [hx]; rfl)

/-- Settles O46: the codes row by row; a conforming digest passes both tests of length that end in code 6. -/
theorem commandsEndWithTheirCodes : Obligations.CommandsEndWithTheirCodes := by
  refine ⟨fun i s t hbusy h hidle => exec_err_mem_endCodes hbusy h hidle, ?_⟩
  rintro s t a src digits r x hp hx - hconf (h | h)
  · obtain rfl := Host.Outcome.next.inj ((exec_hmac_of_resp hp _ src hx).symm.trans h)
    exact hmacStore_err_of_conforming hconf _
  · obtain rfl := Host.Outcome.next.inj ((exec_hotp_of_resp hp _ digits hx).symm.trans h)
    exact hotpDerive_err_of_conforming hconf digits _

/-! ### What an error leaves (R191) -/

/-- Codes 2, 3 and 8 are raised by the checks alone, since a legal command's body waits or ends with code 0, 1 or 6; a check
that fails completes the command and touches no data. -/
theorem sameData_of_check_code {i : Instr} {s t : State} (hp : s.phase = .exec) (h : exec i s = .next t)
    (hidle : t.phase = .idle) (hcode : t.err = 2 ∨ t.err = 3 ∨ t.err = 8) : SameData s t := by
  rw [exec_eq_preChecked hp] at h
  obtain ⟨hpass, rfl⟩ | ⟨-, rfl⟩ := preChecked_cases h
  · obtain hwait | ⟨-, -, herr⟩ := commandBody_ends (legal_of_preChecks (firstError_eq_none.mpr hpass)) s
    · simp [hwait] at hidle
    · obtain he | he | he := herr <;> simp [he] at hcode
  · simp [SameData]

/-- Code 6 of `DTRUNC` is raised after `ClearDest` and before any result. -/
theorem dtrunc_results_of_err_six {digits : Nat} {s t : State} (h : exec (.dtrunc digits) s = .next t)
    (herr : t.err = 6) : t.value = 0 ∧ t.code = 0 ∧ t.olen = 0 := by
  obtain ⟨-, -, -, rfl⟩ | rfl | rfl := execDtrunc_cases h
  · obtain ⟨-, hbody⟩ | ⟨-, hbody⟩ := dtruncBody_cases digits s
    · simp [hbody]
    · simp [hbody, ErrKind.code] at herr
  · simp [ErrKind.code] at herr
  · simp [ErrKind.code] at herr

/-- A `HOTP` that waits has sent a request, its results cleared. -/
theorem hotp_results_of_wait {alg : AlgId} {digits : Nat} {s t : State} (hp : s.phase = .exec)
    (h : exec (.hotp alg digits) s = .next t) (ht : t.phase = .wait) :
    (∃ r, t.chan = .req r) ∧ t.value = 0 ∧ t.code = 0 ∧ t.olen = 0 := by
  cases alg with
  | known a =>
    obtain ⟨-, rfl⟩ := hotp_sent_of_wait hp h ht
    exact ⟨⟨_, rfl⟩, rfl, rfl, rfl⟩
  | unsupported n =>
    obtain ⟨hwait, -⟩ | ⟨-, ⟨_, -, rfl⟩ | ⟨_, ha, -⟩ | ⟨_, ha, -⟩⟩ := execHotp_cases h
    · simp [hp] at hwait
    · simp at ht
    · cases ha
    · cases ha

/-- Settles O47: the checks touch no data, and past `ClearDest` an error ends the command before its results are written. -/
theorem errorsLeaveNoResult : Obligations.ErrorsLeaveNoResult := by
  refine ⟨fun i s t hp h hidle hcode => sameData_of_check_code hp h hidle hcode, fun digits s t _ h herr _ => ?_, ?_⟩
  · obtain ⟨hvalue, hcode, holen⟩ := dtrunc_results_of_err_six h herr
    obtain ⟨-, -, -, hdbuf, hdlen⟩ := dtrunc_frame h
    exact ⟨hvalue, hcode, holen, hdlen, hdbuf⟩
  · intro alg digits s t x u hp hsend hwait htake _ herr
    obtain ⟨⟨r, hr⟩, hvalue, hcode, holen⟩ := hotp_results_of_wait hp hsend hwait
    rw [coreRespond_of_req hr, exec_hotp_of_resp (s := { t with chan := .resp x }) hwait alg digits rfl] at htake
    obtain rfl := Host.Outcome.next.inj htake
    obtain hzero | ⟨hkind, hv, hc, ho, hklen, hkbuf⟩ := hotpDerive_err digits x (consumeAnswer { t with chan := .resp x })
    · exact absurd hzero herr
    · exact ⟨hkind, hv.trans hvalue, hc.trans hcode, ho.trans holen, hklen, hkbuf⟩

end Sys2Proof.Machine
end

section
/-! PROOFS. Reset and stale operands (R223, R227): what each command does straight after reset, and that a digest from before
a failed `HMAC` is never truncated. -/

namespace Sys2Proof.Machine

/-! ### No old digest is truncated (R227) -/

@[simp] theorem coreRespond_dlen (x : Answer) (s : State) : (coreRespond x s).dlen = s.dlen := by
  rw [coreRespond_eq]

/-- An `HMAC` that waits has sent a request, its destination cleared (R135). -/
theorem hmac_sent_of_wait {s t : State} {alg : AlgId} {src : MsgSrc} (hp : s.phase = .exec)
    (h : exec (.hmac alg src) s = .next t) (ht : t.phase = .wait) : (∃ r, t.chan = .req r) ∧ t.dlen = 0 := by
  obtain ⟨hwait, -⟩ | ⟨-, ⟨n, -, rfl⟩ | ⟨a, -, -, -, rfl⟩ | ⟨a, -, rfl⟩⟩ := execHmac_cases h
  · simp [hp] at hwait
  · simp at ht
  · rw [hmacSend_eq]
    exact ⟨⟨_, rfl⟩, rfl⟩
  · simp at ht

/-- An answer that ends `HMAC` with an error leaves `DLEN` as stage 1 left it (R137, R191). -/
theorem hmacStore_dlen_of_err {x : Answer} {s : State} (herr : (hmacStore x s).err ≠ 0) :
    (hmacStore x s).dlen = s.dlen := by
  obtain ⟨-, hx⟩ | ⟨n, d, -, -, hx⟩ | ⟨n, d, -, -, hx⟩ := hmacStore_cases x s
  · rw [hx, complete_dlen]
  · rw [hx, complete_dlen]
  · exact absurd (congrArg State.err hx) herr

/-- Settles O48: stage 1 sets `DLEN` to 0, an error keeps it there, and `DTRUNC` finds a digest below 20 bytes. -/
theorem noOldDigestIsTruncated : Obligations.NoOldDigestIsTruncated := by
  intro s t u v alg src digits x hp hsend hwait htake herr hdigits htrunc
  obtain ⟨⟨r, hr⟩, hdlen⟩ := hmac_sent_of_wait hp hsend hwait
  rw [exec_hmac_of_resp (by rwa [coreRespond_phase]) alg src (coreRespond_chan_of_req hr x)] at htake
  obtain rfl := Host.Outcome.next.inj htake
  have hcode := (hmacStore_err x (consumeAnswer (coreRespond x t))).resolve_left herr
  have hzero : (hmacStore x (consumeAnswer (coreRespond x t))).dlen = 0 := by
    rw [hmacStore_dlen_of_err herr, consumeAnswer_dlen, coreRespond_dlen, hdlen]
  obtain ⟨hmin, hmax⟩ := digitsCheck_eq_none.mp (digitsCheck_eq_none_iff_legal.mpr hdigits)
  rw [exec_dtrunc_of_dlen_lt hmin hmax (by simp [hzero])] at htrunc
  obtain rfl := Host.Outcome.next.inj htrunc
  exact ⟨hcode, rfl, rfl, rfl, rfl, rfl⟩

/-! ### Commands straight after reset (R223) -/

theorem inputBytes_of_ilen_zero {s : State} (h : s.ilen = 0) : inputBytes s = [] :=
  List.length_eq_zero_iff.mp (by rw [inputBytes_length, h]; rfl)

theorem keyBytes_of_klen_zero {s : State} (h : s.klen = 0) : keyBytes s = [] :=
  List.length_eq_zero_iff.mp (by rw [keyBytes_length, h]; rfl)

theorem ctrBytes_zero : ctrBytes 0 = [0, 0, 0, 0, 0, 0, 0, 0] := by
  decide

/-- The state in which a command issued as the first access after reset starts (R30, R68). -/
def issuedAfterReset (v : Word) (rest : List Move) : State :=
  issue v { State.reset with schedule := rest, response := some .ok }

theorem step_issue_after_reset (v : Word) (rest : List Move) :
    step { State.reset with schedule := .write 0x000 v :: rest } = .next (issuedAfterReset v rest) :=
  step_write_of_idle rfl rfl (r := .cmd) rfl

theorem inputBytes_issuedAfterReset (v : Word) (rest : List Move) : inputBytes (issuedAfterReset v rest) = [] :=
  inputBytes_of_ilen_zero rfl

/-- The empty input decodes to the empty key. -/
theorem decodedKey_issuedAfterReset (v : Word) (rest : List Move) :
    b32dec (inputBytes (issuedAfterReset v rest)) = [] := by
  rw [inputBytes_issuedAfterReset]
  rfl

/-- The messages of an `HMAC` straight after reset: no byte of IBUF, or the eight bytes of the counter 0. -/
theorem messageBytes_issuedAfterReset (src : MsgSrc) (v : Word) (rest : List Move) (n : Nat) :
    messageBytes src (spend n (issuedAfterReset v rest)) = if src = .ibuf then [] else [0, 0, 0, 0, 0, 0, 0, 0] := by
  cases src with
  | ibuf => exact inputBytes_of_ilen_zero rfl
  | ctr => exact ctrBytes_zero

/-- Settles O53: the write issues the command, all of whose operands are empty or 0. -/
theorem commandsStraightAfterReset : Obligations.CommandsStraightAfterReset := by
  rintro s rest i rfl hlegal
  refine ⟨_, step_issue_after_reset (encode i) rest, ?_⟩
  have hilen : (issuedAfterReset (encode i) rest).ilen.toNat ≤ 256 := Nat.zero_le _
  have hkey := decodedKey_issuedAfterReset (encode i) rest
  cases i with
  | b32enc =>
    refine ⟨_, exec_b32enc_of_ilen_le hilen, rfl, rfl, ?_⟩
    rw [inputBytes_issuedAfterReset]
    rfl
  | b32dec dest =>
    refine ⟨_, exec_b32dec_of_ilen_le hilen dest, rfl, rfl, ?_⟩
    rw [hkey]
    cases dest <;> exact ⟨rfl, rfl⟩
  | hmac alg src =>
    cases alg with
    | known a =>
      refine ⟨_, exec_hmac_of_lengths_le rfl a (Nat.zero_le _) fun _ => hilen, a, rfl, ?_⟩
      rw [hmacSend_eq, keyBytes_of_klen_zero rfl, messageBytes_issuedAfterReset]
      exact ⟨rfl, rfl⟩
    | unsupported n => cases hlegal
  | dtrunc digits =>
    obtain ⟨hmin, hmax⟩ := digitsCheck_eq_none.mp (digitsCheck_eq_none_iff_legal.mpr hlegal)
    exact ⟨_, exec_dtrunc_of_dlen_lt hmin hmax (by decide : 0 < 20), rfl, rfl⟩
  | hotp alg digits =>
    obtain ⟨halg, hdigits⟩ := Bool.and_eq_true_iff.mp hlegal
    cases alg with
    | known a =>
      obtain ⟨hmin, hmax⟩ := digitsCheck_eq_none.mp (digitsCheck_eq_none_iff_legal.mpr hdigits)
      exact ⟨_, exec_hotp_of_key_eq_nil rfl a hmin hmax hilen hkey, rfl, rfl, rfl⟩
    | unsupported n => cases halg

end Sys2Proof.Machine
end

section
/-! PROOFS. The agents' turns: what a host access can do in any phase (R63, R70, R71), and the sequencer's step by the
phase it finds (R96, R137, R139, R167). -/

namespace Sys2Proof.Machine

/-! ### The host's accesses -/

/-- A read has no effect on the block but its draws (R66, R71). -/
theorem hostRead_eq (a : Addr) (s : State) : ∃ x n, hostRead a s = respond x (spend n s) := by
  cases hr : hostCheck .read a with
  | none => exact ⟨_, 0, hostRead_of_faults (hostCheck_eq_none_iff.mp hr)⟩
  | some r =>
    by_cases hp : s.phase = .idle
    · exact ⟨_, _, hostRead_of_idle hp hr⟩
    · obtain ⟨x, n, hread, -⟩ := hostRead_of_busy hp hr
      exact ⟨_, n, hread⟩

/-- All a write can do: fault, be dropped while busy, or set the word at its address while idle (R63, R67, R70). -/
theorem hostWrite_cases (a : Addr) (v : Word) (s : State) :
    hostWrite a v s = respond .hostFault s ∨
      (s.phase ≠ .idle ∧ hostWrite a v s = respond .ok { s with ovr := true }) ∨
      (∃ r : Reg, s.phase = .idle ∧ a = addrOf r ∧ r.InMap ∧ hostWrite a v s = respond .ok (writeReg r v s)) := by
  cases hr : hostCheck .write a with
  | none => exact .inl (hostWrite_of_faults (hostCheck_eq_none_iff.mp hr) v)
  | some r =>
    by_cases hp : s.phase = .idle
    · obtain ⟨haddr, hmap, -⟩ := hostCheck_eq_some_iff.mp hr
      exact .inr (.inr ⟨r, hp, haddr, hmap, hostWrite_of_idle hp hr v⟩)
    · exact .inr (.inl ⟨hp, hostWrite_of_busy hp hr v⟩)

/-! ### The sequencer in `EXEC` (R96) -/

theorem sequencerStep_of_decode_ok {s : State} (hp : s.phase = .exec) {i : Instr} (h : decode s.cmdw = .ok i) :
    sequencerStep s = exec i s := by
  simp only [sequencerStep, hp, runCommand, h]

theorem preChecked_answers_next (checks : List ErrKind) (body : State → State) (s : State) :
    ∃ t, preChecked checks body s = .next t := by
  by_cases h : firstError checks = .none
  · exact ⟨_, if_pos h⟩
  · exact ⟨_, if_neg h⟩

/-! ### The sequencer in `WAIT` (R137, R139, R167) -/

/-- The commands that wait on the core (R22). -/
def Waits : Instr → Prop
  | .hmac _ _ => True
  | .hotp _ _ => True
  | _ => False

/-- `WAIT` reads a command that waits from the word, one that some word spells, its fields being four bits each (R91,
log entry 13). -/
theorem waitingInstr_spec {w : Word} {i : Instr} (h : waitingInstr w = some i) :
    Waits i ∧ i.wellFormed = true := by
  unfold waitingInstr at h
  split at h
  · cases h
    exact ⟨trivial, wellFormed_algOfNumber (algField_lt w)⟩
  · cases h
    exact ⟨trivial, Bool.and_eq_true_iff.mpr
      ⟨wellFormed_algOfNumber (algField_lt w), digitsWellFormed_iff.mpr (digitsField_lt w)⟩⟩
  · cases h

/-- Of a word that spells a command that waits, `WAIT` reads that command (R92). -/
theorem waitingInstr_of_decode {w : Word} {i : Instr} (h : decode w = .ok i) (hi : Waits i) :
    waitingInstr w = some i := by
  obtain ⟨-, -, -, -, rfl⟩ | ⟨-, -, -, rfl⟩ | ⟨hop, -, rfl⟩ | ⟨-, -, -, rfl⟩ | ⟨hop, -, rfl⟩ :=
    decodeOp_ok_cases (decode_eq_ok_iff.mp h).2
  · exact hi.elim
  · exact hi.elim
  · simp only [waitingInstr, hop]
  · exact hi.elim
  · simp only [waitingInstr, hop]

theorem exists_waitingInstr_of_waitable {w : Word} (h : waitable w = true) : ∃ i, waitingInstr w = some i := by
  unfold waitable at h
  split at h
  · next hd => exact ⟨_, waitingInstr_of_decode hd trivial⟩
  · next hd => exact ⟨_, waitingInstr_of_decode hd trivial⟩
  · cases h

theorem sequencerStep_of_waitingInstr {s : State} (hp : s.phase = .wait) {i : Instr}
    (h : waitingInstr s.cmdw = some i) : sequencerStep s = exec i s := by
  simp only [sequencerStep, hp, runWaiting, h]

section Waiting

variable {s : State} {i : Instr} (hi : Waits i) (hp : s.phase = .wait)
include hi hp

/-- A waiting command that has no answer yet holds the state (R139). -/
theorem exec_of_wait_of_no_answer (hchan : ∀ x, s.chan ≠ .resp x) : exec i s = .next s := by
  cases i with
  | hmac alg src =>
    obtain ⟨-, ht⟩ | ⟨x, hx, -⟩ := hmacTake_cases s
    · simp only [exec, execHmac, hp, ht]
    · exact absurd hx (hchan x)
  | hotp alg digits =>
    obtain ⟨-, ht⟩ | ⟨x, hx, -⟩ := hotpTake_cases digits s
    · simp only [exec, execHotp, hp, ht]
    · exact absurd hx (hchan x)
  | _ => exact hi.elim

/-- A waiting command that has its answer completes and leaves the channel idle (R137, R167). -/
theorem exec_of_wait_of_resp {x : Answer} (hx : s.chan = .resp x) :
    ∃ e u, exec i s = .next (complete e u) ∧ u.chan = .idle := by
  cases i with
  | hmac alg src =>
    rw [exec_hmac_of_resp hp alg src hx]
    obtain ⟨-, ht⟩ | ⟨n, d, -, -, ht⟩ | ⟨n, d, -, -, ht⟩ := hmacStore_cases x (consumeAnswer s) <;>
      exact ⟨_, _, congrArg _ ht, rfl⟩
  | hotp alg digits =>
    rw [exec_hotp_of_resp hp alg digits hx]
    obtain ⟨-, ht⟩ | ⟨n, d, -, -, ht⟩ | ⟨n, d, -, -, ht⟩ | ⟨n, d, -, -, -, ht⟩ :=
      hotpDerive_cases digits x (consumeAnswer s) <;> exact ⟨_, _, congrArg _ ht, rfl⟩
  | _ => exact hi.elim

theorem exec_of_wait_answers_next : ∃ t, exec i s = .next t := by
  by_cases hchan : ∃ x, s.chan = .resp x
  · obtain ⟨x, hx⟩ := hchan
    obtain ⟨e, u, ht, -⟩ := exec_of_wait_of_resp hi hp hx
    exact ⟨_, ht⟩
  · exact ⟨_, exec_of_wait_of_no_answer hi hp (not_exists.mp hchan)⟩

end Waiting

/-- In `WAIT` on a request the sequencer's turn changes nothing, whatever word is waited on (R139, log entry 13). -/
theorem eq_of_sequencerStep_of_req {s t : State} {r : Request} (hp : s.phase = .wait) (hr : s.chan = .req r)
    (h : sequencerStep s = .next t) : t = s := by
  obtain rfl | ⟨he, -⟩ | ⟨i, he, -⟩ | ⟨i, -, hw, he⟩ := sequencerStep_cases h
  · rfl
  · simp [hp] at he
  · simp [hp] at he
  · rw [exec_of_wait_of_no_answer (waitingInstr_spec hw).1 hp (by simp [hr])] at he
    exact (Host.Outcome.next.inj he).symm

/-! ### The statements -/

/-- Settles O6: with nothing before it the sequencer's step is taken, and it goes by the phase and the word. -/
theorem stepRunsTheLatchedCommand : Obligations.StepRunsTheLatchedCommand := by
  refine ⟨fun s i hs hp h => ?_, fun s i rest hs hp h => ?_, fun s e hs hp h => ?_, fun s i hs hp h => ?_⟩
  · exact (step_of_schedule_nil hs).trans (sequencerStep_of_decode_ok hp h)
  · exact (step_of_schedule_cons hs).trans (sequencerStep_of_decode_ok (s := { s with schedule := rest }) hp h)
  · exact (step_of_schedule_nil hs).trans (sequencerStep_of_decode_error hp h)
  · exact (step_of_schedule_nil hs).trans (sequencerStep_of_waitingInstr hp h)

/-- Settles O36: a request is no answer. -/
theorem waitingCommandsHold : Obligations.WaitingCommandsHold := fun _ _ _ _ _ hp hr =>
  ⟨exec_of_wait_of_no_answer (i := .hmac _ _) trivial hp (by simp [hr]),
    exec_of_wait_of_no_answer (i := .hotp _ _) trivial hp (by simp [hr])⟩

/-- The sequencer answers in every phase: in `EXEC` by the checks, in `WAIT` by the answer. -/
theorem sequencerStep_answers_next (s : State) : ∃ t, sequencerStep s = .next t := by
  cases hp : s.phase with
  | idle => exact ⟨s, by simp only [sequencerStep, hp]⟩
  | exec =>
    cases hd : decode s.cmdw with
    | error e => exact ⟨_, sequencerStep_of_decode_error hp hd⟩
    | ok i =>
      rw [sequencerStep_of_decode_ok hp hd, exec_eq_preChecked hp]
      exact preChecked_answers_next _ _ s
  | wait =>
    cases hw : waitingInstr s.cmdw with
    | none => exact ⟨s, by simp only [sequencerStep, hp, runWaiting, hw]⟩
    | some i =>
      rw [sequencerStep_of_waitingInstr hp hw]
      exact exec_of_wait_answers_next (waitingInstr_spec hw).1 hp

/-- Settles O8: every agent but the sequencer answers at once, and the sequencer answers in every phase. -/
theorem everyStepAnswersNext : Obligations.EveryStepAnswersNext := by
  intro s
  cases hs : s.schedule with
  | nil =>
    rw [step_of_schedule_nil hs]
    exact sequencerStep_answers_next s
  | cons m rest =>
    rw [step_of_schedule_cons hs]
    cases m with
    | sequencer => exact sequencerStep_answers_next _
    | _ => exact ⟨_, rfl⟩

/-- Settles O24: the sequencer holds, a read changes only draws, and a write faults or is dropped. -/
theorem onlyAnswerOrResetEndsTheWait : Obligations.OnlyAnswerOrResetEndsTheWait := by
  intro s t r hp hr h
  have hheld : ∀ u : State,
      u = { s with ovr := u.ovr, draws := u.draws, response := u.response, schedule := u.schedule } →
      u.phase = .wait ∧ u.chan = .req r ∧ u.cmdw = s.cmdw ∧ u.busy = true ∧ SameData s u := fun u hu => by
    rw [hu]
    exact ⟨hp, hr, rfl, busy_eq_true (by simp [hp]), by simp [SameData]⟩
  obtain ⟨-, ht⟩ | ⟨rest, -, ht⟩ | ⟨x, rest, hs, -⟩ | ⟨a, rest, -, rfl⟩ | ⟨a, v, rest, -, rfl⟩ | ⟨rest, hs, -⟩ :=
    step_cases h
  · obtain rfl := eq_of_sequencerStep_of_req hp hr ht
    exact .inr (.inr (hheld _ rfl))
  · obtain rfl := eq_of_sequencerStep_of_req (s := { s with schedule := rest }) hp hr ht
    exact .inr (.inr (hheld _ rfl))
  · exact .inl ⟨x, rest, hs⟩
  · obtain ⟨x, n, ht⟩ := hostRead_eq a { s with schedule := rest }
    rw [ht]
    exact .inr (.inr (hheld _ rfl))
  · obtain ht | ⟨-, ht⟩ | ⟨r', hidle, -⟩ := hostWrite_cases a v { s with schedule := rest }
    · rw [ht]
      exact .inr (.inr (hheld _ rfl))
    · rw [ht]
      exact .inr (.inr (hheld _ rfl))
    · simp [hp] at hidle
  · exact .inr (.inl ⟨rest, hs⟩)

/-- Settles O25: the core's answer leaves the command waiting on it, and the sequencer's turn then completes it. -/
theorem answeredCommandsComplete : Obligations.AnsweredCommandsComplete := by
  intro s r x hp hw hr hs
  obtain ⟨i, hi⟩ := exists_waitingInstr_of_waitable hw
  obtain ⟨e, u, hexec, hchan⟩ :=
    exec_of_wait_of_resp (s := { s with schedule := [], chan := .resp x }) (waitingInstr_spec hi).1 hp rfl
  refine ⟨_, _, coreAnswersTheRequest s r x [] hs hr,
    (step_of_schedule_nil rfl).trans ((sequencerStep_of_waitingInstr (s := { s with schedule := [], chan := .resp x })
      hp hi).trans hexec), rfl, rfl, hchan, ?_⟩
  obtain ⟨⟨hovr, -⟩, -⟩ := onlyDestinationsChange i _ _ hexec
  exact hovr

end Sys2Proof.Machine
end

section
/-! PROOFS. The canonical form of the buffers (R26): the rules by which a state's four buffers come to be in it, and
that every step of every agent keeps them there. -/

namespace Sys2Proof.Machine

/-! ### How the buffers come to be in canonical form -/

/-- The four buffers (R26). -/
def buffers (s : State) : Memory × Memory × Memory × Memory := (s.ibuf, s.obuf, s.kbuf, s.dbuf)

/-- The canonical form speaks of the buffers alone. -/
theorem BuffersWf.congr {s t : State} (h : BuffersWf s) (heq : buffers t = buffers s) : BuffersWf t := by
  simp only [buffers, Prod.mk.injEq] at heq
  obtain ⟨hibuf, hobuf, hkbuf, hdbuf⟩ := heq
  exact ⟨hibuf ▸ h.ibuf, hobuf ▸ h.obuf, hkbuf ▸ h.kbuf, hdbuf ▸ h.dbuf⟩

theorem BuffersWf.complete {s : State} (h : BuffersWf s) (e : ErrKind) : BuffersWf (complete e s) := h.congr rfl

theorem BuffersWf.spend {s : State} (h : BuffersWf s) (n : Nat) : BuffersWf (spend n s) := h.congr rfl

theorem BuffersWf.writeObuf {s : State} (h : BuffersWf s) {bs : List Byte} (hbs : bs.length ≤ 512) :
    BuffersWf (writeObuf bs s) :=
  { h with obuf := wf_ofBytes hbs }

theorem BuffersWf.writeKbuf {s : State} (h : BuffersWf s) {bs : List Byte} (hbs : bs.length ≤ 256) :
    BuffersWf (writeKbuf bs s) :=
  { h with kbuf := wf_ofBytes hbs }

theorem BuffersWf.writeDbuf {s : State} (h : BuffersWf s) {bs : List Byte} (hbs : bs.length ≤ 64) :
    BuffersWf (writeDbuf bs s) :=
  { h with dbuf := wf_ofBytes hbs }

theorem BuffersWf.deriveCode {s : State} (h : BuffersWf s) (d : List Byte) {digits : Nat} (hdigits : digits ≤ 512) :
    BuffersWf (deriveCode d digits s) := by
  have hcode : BuffersWf (writeCode (dtValue d) (dtCode (dtValue d) digits) s) := h.congr rfl
  exact hcode.writeObuf (bs := render _ digits) (by rwa [render_length])

/-- `ClearDest` empties a buffer or leaves it (R98). -/
theorem BuffersWf.clearDest {s : State} (h : BuffersWf s) (i : Instr) : BuffersWf (clearDest i s) := by
  have hobuf : BuffersWf (clearObuf s) := { h with obuf := wf_nil _ }
  cases i with
  | b32enc => exact hobuf
  | b32dec dest =>
    cases dest with
    | obuf => exact hobuf
    | kbuf => exact { h with kbuf := wf_nil _ }
  | hmac alg src => exact { h with dbuf := wf_nil _ }
  | dtrunc digits => exact hobuf.congr rfl
  | hotp alg digits => exact { hobuf with kbuf := wf_nil _, dbuf := wf_nil _ }

/-! ### The commands -/

section Steps

variable {s t : State} (h : BuffersWf s)
include h

/-- An encoded input has at most 410 bytes (R117). -/
theorem buffersWf_execB32enc (ht : exec .b32enc s = .next t) : BuffersWf t := by
  obtain ⟨hilen, rfl⟩ | rfl := execB32enc_cases ht
  · refine (BuffersWf.writeObuf ((h.clearDest .b32enc).spend _) ?_).complete _
    rw [b32enc_length, inputBytes_clearDest, inputBytes_length]
    omega
  · exact h.complete _

/-- A decoded input has at most 160 bytes, which either destination holds (R117). -/
theorem buffersWf_execB32dec {dest : DecDest} (ht : exec (.b32dec dest) s = .next t) : BuffersWf t := by
  obtain ⟨hilen, rfl⟩ | rfl := execB32dec_cases ht
  · have hclear := (h.clearDest (.b32dec dest)).spend (clearDest (.b32dec dest) s).ilen.toNat
    have hlen := decodedKey_length_le (s := clearDest (.b32dec dest) s) (by rwa [clearDest_ilen])
    cases dest with
    | obuf => exact (hclear.writeObuf (by omega)).complete _
    | kbuf => exact (hclear.writeKbuf (by omega)).complete _
  · exact h.complete _

/-- An answer is stored only when DBUF holds it (R137). -/
theorem BuffersWf.hmacTake : BuffersWf (hmacTake s) := by
  obtain ⟨-, ht⟩ | ⟨x, -, ht⟩ := hmacTake_cases s <;> rw [ht]
  · exact h
  · have hconsume : BuffersWf (consumeAnswer s) := h.congr rfl
    obtain ⟨-, hx⟩ | ⟨n, d, -, -, hx⟩ | ⟨n, d, -, hn, hx⟩ := hmacStore_cases x (consumeAnswer s) <;> rw [hx]
    · exact hconsume.complete _
    · exact hconsume.complete _
    · exact (hconsume.writeDbuf (by rwa [digest_length n d (Nat.not_lt.mpr hn)])).complete _

theorem buffersWf_execHmac {alg : AlgId} {src : MsgSrc} (ht : exec (.hmac alg src) s = .next t) : BuffersWf t := by
  obtain ⟨-, rfl⟩ | ⟨-, ⟨n, -, rfl⟩ | ⟨a, -, -, -, rfl⟩ | ⟨a, -, rfl⟩⟩ := execHmac_cases ht
  · exact h.hmacTake
  · exact h.complete _
  · exact (h.clearDest (.hmac (.known a) src)).congr rfl
  · exact h.complete _

theorem buffersWf_execDtrunc {digits : Nat} (ht : exec (.dtrunc digits) s = .next t) : BuffersWf t := by
  obtain ⟨-, hdigits, -, rfl⟩ | rfl | rfl := execDtrunc_cases ht
  · have hclear := h.clearDest (.dtrunc digits)
    obtain ⟨-, hbody⟩ | ⟨-, hbody⟩ := dtruncBody_cases digits s <;> rw [hbody]
    · exact hclear.complete _
    · exact ((hclear.spend _).deriveCode _ (by omega)).complete _
  · exact h.complete _
  · exact h.complete _

/-- A digest is stored only when DBUF holds it, and its code has as many bytes as digits (R167). -/
theorem BuffersWf.hotpTake {digits : Nat} (hdigits : digits ≤ 512) : BuffersWf (hotpTake digits s) := by
  obtain ⟨-, ht⟩ | ⟨x, -, ht⟩ := hotpTake_cases digits s <;> rw [ht]
  · exact h
  · have hconsume : BuffersWf (consumeAnswer s) := h.congr rfl
    have hstore : ∀ (n : Fin 128) (d : Vector Byte 64), n.val ≤ 64 →
        BuffersWf (Machine.writeDbuf (d.toList.take n.val) (consumeAnswer s)) := fun n d hn =>
      hconsume.writeDbuf (by rwa [digest_length n d (Nat.not_lt.mpr hn)])
    obtain ⟨-, hx⟩ | ⟨n, d, -, -, hx⟩ | ⟨n, d, -, hn, hx⟩ | ⟨n, d, -, -, hn, hx⟩ :=
      hotpDerive_cases digits x (consumeAnswer s) <;> rw [hx]
    · exact hconsume.complete _
    · exact hconsume.complete _
    · exact (hstore n d (by omega)).complete _
    · exact ((hstore n d hn).deriveCode _ hdigits).complete _

theorem buffersWf_execHotp {alg : AlgId} {digits : Nat} (hdigits : digits ≤ 512)
    (ht : exec (.hotp alg digits) s = .next t) : BuffersWf t := by
  obtain ⟨-, rfl⟩ | ⟨-, ⟨n, -, rfl⟩ | ⟨a, -, -, -, hilen, rfl⟩ | ⟨a, -, rfl | rfl⟩⟩ := execHotp_cases ht
  · exact h.hotpTake hdigits
  · exact h.complete _
  · obtain ⟨key, u, rfl, rfl, hsend⟩ := hotpSend_cases a digits s
    have hlen := decodedKey_length_le hilen
    have hstored := ((h.clearDest (.hotp (.known a) digits)).spend s.ilen.toNat).writeKbuf
      (bs := b32dec (inputBytes s)) (by omega)
    obtain hsend | hsend := hsend <;> rw [hsend]
    · exact hstored.complete _
    · exact hstored.congr rfl
  · exact h.complete _
  · exact h.complete _

/-- A command that some word spells keeps the canonical form. -/
theorem buffersWf_exec {i : Instr} (hi : i.wellFormed = true) (ht : exec i s = .next t) : BuffersWf t := by
  cases i with
  | b32enc => exact buffersWf_execB32enc h ht
  | b32dec dest => exact buffersWf_execB32dec h ht
  | hmac alg src => exact buffersWf_execHmac h ht
  | dtrunc digits => exact buffersWf_execDtrunc h ht
  | hotp alg digits =>
    have hdigits := digitsWellFormed_iff.mp (Bool.and_eq_true_iff.mp hi).2
    exact buffersWf_execHotp h (by omega) ht

/-! ### The agents' steps -/

theorem buffersWf_sequencerStep (ht : sequencerStep s = .next t) : BuffersWf t := by
  obtain rfl | ⟨-, -, rfl⟩ | ⟨i, -, hw, he⟩ | ⟨i, -, hw, he⟩ := sequencerStep_cases ht
  · exact h
  · exact h.complete _
  · exact buffersWf_exec h (encodeOfDecode _ i hw).2 he
  · exact buffersWf_exec h (waitingInstr_spec hw).2 he

/-- A word of the window lies inside its buffer (R61, R64). -/
theorem BuffersWf.writeReg {r : Reg} (hmap : r.InMap) (v : Word) : BuffersWf (writeReg r v s) := by
  cases r with
  | ibuf w =>
    have hw : w < 64 := hmap
    exact { h with ibuf := wf_writeBufferWord v h.ibuf (show 4 * w + 3 < 256 by omega) }
  | kbuf w =>
    have hw : w < 64 := hmap
    exact { h with kbuf := wf_writeBufferWord v h.kbuf (show 4 * w + 3 < 256 by omega) }
  | dbuf w =>
    have hw : w < 16 := hmap
    exact { h with dbuf := wf_writeBufferWord v h.dbuf (show 4 * w + 3 < 64 by omega) }
  | _ => exact h.congr rfl

theorem BuffersWf.hostWrite (a : Addr) (v : Word) : BuffersWf (hostWrite a v s) := by
  obtain ht | ⟨-, ht⟩ | ⟨r, -, -, hmap, ht⟩ := hostWrite_cases a v s <;> rw [ht]
  · exact h.congr rfl
  · exact h.congr rfl
  · exact (h.writeReg hmap v).congr rfl

theorem BuffersWf.hostRead (a : Addr) : BuffersWf (hostRead a s) := by
  obtain ⟨x, n, ht⟩ := hostRead_eq a s
  exact ht ▸ h.congr rfl

theorem BuffersWf.coreRespond (x : Answer) : BuffersWf (coreRespond x s) := by
  rw [coreRespond_eq]
  exact h.congr rfl

end Steps

/-- The reset buffers define no byte (R30). -/
theorem buffersWf_resetBlock (s : State) : BuffersWf (resetBlock s) := ⟨wf_nil _, wf_nil _, wf_nil _, wf_nil _⟩

/-- Settles O56, by the step's agents: each keeps the canonical form, whatever moves are still lined up. -/
theorem stepKeepsTheBuffersWellFormed : Obligations.StepKeepsTheBuffersWellFormed := by
  intro s t h ht
  have hrest : ∀ rest, BuffersWf { s with schedule := rest } := fun _ => h.congr rfl
  obtain ⟨-, ht⟩ | ⟨rest, -, ht⟩ | ⟨x, rest, -, rfl⟩ | ⟨a, rest, -, rfl⟩ | ⟨a, v, rest, -, rfl⟩ | ⟨rest, -, rfl⟩ :=
    step_cases ht
  · exact buffersWf_sequencerStep h ht
  · exact buffersWf_sequencerStep (hrest rest) ht
  · exact (hrest rest).coreRespond x
  · exact (hrest rest).hostRead a
  · exact (hrest rest).hostWrite a v
  · exact buffersWf_resetBlock _

end Sys2Proof.Machine
end

section
/-! PROOFS. What a step can do to the phase, the flags and the counter (R22, R24, R156), said once as the events a step
can be, and the statements about them. -/

namespace Sys2Proof.Machine

/-! ### The events -/

/-- `t` has the phase, the flags, `CTRL.IE` and the counter of `s`. -/
structure SameControl (s t : State) : Prop where
  phase : t.phase = s.phase
  done : t.done = s.done
  err : t.err = s.err
  ovr : t.ovr = s.ovr
  ie : t.ie = s.ie
  ctr : t.ctr = s.ctr

/-- What a step from `s` to `t` is, as far as the phase, the flags and the counter tell. -/
inductive ControlEvent (s t : State) : Prop
  /-- none of them changes -/
  | quiet (same : SameControl s t)
  /-- a command completes (R190), from `WAIT` only with its answer -/
  | completion (e : ErrKind) (busy : s.phase ≠ .idle) (answered : s.phase = .wait → ∃ x, s.chan = .resp x)
      (same : SameControl (complete e s) t)
  /-- `HMAC` or `HOTP` sends its request (R135, R166) -/
  | request (r : Request) (running : s.phase = .exec) (op : opField s.cmdw = 3 ∨ opField s.cmdw = 5)
      (sent : t.chan = .req r) (same : SameControl (sendRequest r s) t)
  /-- a write while busy is dropped (R70) -/
  | dropped (a : Addr) (v : Word) (rest : List Move) (busy : s.phase ≠ .idle) (move : s.schedule = .write a v :: rest)
      (same : SameControl { s with ovr := true } t)
  /-- a write while idle sets a word (R67) -/
  | written (r : Reg) (v : Word) (rest : List Move) (idle : s.phase = .idle)
      (move : s.schedule = .write (addrOf r) v :: rest) (same : SameControl (writeReg r v s) t)
  /-- the block is reset (R220) -/
  | reset (rest : List Move) (move : s.schedule = .reset :: rest) (same : SameControl State.reset t)

/-! ### The sequencer's events -/

theorem opField_of_waitingInstr {w : Word} {i : Instr} (h : waitingInstr w = some i) :
    opField w = 3 ∨ opField w = 5 := by
  unfold waitingInstr at h
  split at h
  · next hop => exact .inl hop
  · next hop => exact .inr hop
  · cases h

/-- How the first step of a command ends (R96): it completes, or, if it is one that waits, sends its request with the
flags as they were. -/
theorem exec_cases_of_exec {i : Instr} {s t : State} (hp : s.phase = .exec) (h : exec i s = .next t) :
    (∃ e u, t = complete e u) ∨ (Waits i ∧ ∃ r u, t = sendRequest r u ∧ SameControl s u) := by
  rw [exec_eq_preChecked hp] at h
  obtain ⟨hpass, rfl⟩ | ⟨-, rfl⟩ := preChecked_cases h
  · have hlegal := legal_of_preChecks (firstError_eq_none.mpr hpass)
    cases i with
    | b32enc => exact .inl ⟨_, _, rfl⟩
    | b32dec dest => exact .inl ⟨_, _, rfl⟩
    | hmac alg src =>
      cases alg with
      | known a => exact .inr ⟨trivial, _, _, hmacSend_eq a src s, by constructor <;> simp⟩
      | unsupported n => cases hlegal
    | dtrunc digits =>
      obtain ⟨-, hbody⟩ | ⟨-, hbody⟩ := dtruncBody_cases digits s <;> exact .inl ⟨_, _, hbody⟩
    | hotp alg digits =>
      cases alg with
      | known a =>
        obtain ⟨key, u, -, rfl, hbody | hbody⟩ := hotpSend_cases a digits s
        · exact .inl ⟨_, _, hbody⟩
        · exact .inr ⟨trivial, _, _, hbody, by constructor <;> simp⟩
      | unsupported n => cases hlegal
  · exact .inl ⟨_, _, rfl⟩

/-- The sequencer's turn, whatever moves are still lined up. -/
theorem controlEvent_of_sequencerStep {s t : State} (rest : List Move)
    (h : sequencerStep { s with schedule := rest } = .next t) : ControlEvent s t := by
  obtain rfl | ⟨hp, -, rfl⟩ | ⟨i, hp, hw, he⟩ | ⟨i, hp, hw, he⟩ := sequencerStep_cases h
  · exact .quiet ⟨rfl, rfl, rfl, rfl, rfl, rfl⟩
  · have hexec : s.phase = .exec := hp
    exact .completion .illegalCommand (by simp [hexec]) (by simp [hexec]) ⟨rfl, rfl, rfl, rfl, rfl, rfl⟩
  · have hexec : s.phase = .exec := hp
    obtain ⟨⟨hovr, hie, -, hctr, -⟩, -⟩ := onlyDestinationsChange i _ t he
    obtain ⟨e, u, rfl⟩ | ⟨hwaits, r, u, rfl, same⟩ := exec_cases_of_exec hp he
    · exact .completion e (by simp [hexec]) (by simp [hexec]) ⟨rfl, rfl, rfl, hovr, hie, hctr⟩
    · exact .request r hp (opField_of_waitingInstr (waitingInstr_of_decode hw hwaits)) rfl { same with phase := rfl }
  · have hwait : s.phase = .wait := hp
    obtain ⟨⟨hovr, hie, -, hctr, -⟩, -⟩ := onlyDestinationsChange i _ t he
    obtain ⟨hwaits, -⟩ := waitingInstr_spec hw
    by_cases hchan : ∃ x, s.chan = .resp x
    · obtain ⟨x, hx⟩ := hchan
      obtain ⟨e, u, hu, -⟩ := exec_of_wait_of_resp hwaits hp hx
      obtain rfl := Host.Outcome.next.inj (he.symm.trans hu)
      exact .completion e (by simp [hwait]) (fun _ => ⟨x, hx⟩) ⟨rfl, rfl, rfl, hovr, hie, hctr⟩
    · rw [exec_of_wait_of_no_answer hwaits hp (not_exists.mp hchan)] at he
      obtain rfl := Host.Outcome.next.inj he
      exact .quiet ⟨rfl, rfl, rfl, rfl, rfl, rfl⟩

/-! ### Every step is an event -/

theorem controlEvent_of_step {s t : State} (h : step s = .next t) : ControlEvent s t := by
  obtain ⟨-, ht⟩ | ⟨rest, -, ht⟩ | ⟨x, rest, -, rfl⟩ | ⟨a, rest, -, rfl⟩ | ⟨a, v, rest, hs, rfl⟩ | ⟨rest, hs, rfl⟩ :=
    step_cases h
  · exact controlEvent_of_sequencerStep s.schedule ht
  · exact controlEvent_of_sequencerStep rest ht
  · rw [coreRespond_eq]
    exact .quiet ⟨rfl, rfl, rfl, rfl, rfl, rfl⟩
  · obtain ⟨x, n, hread⟩ := hostRead_eq a { s with schedule := rest }
    rw [hread]
    exact .quiet ⟨rfl, rfl, rfl, rfl, rfl, rfl⟩
  · obtain ht | ⟨hbusy, ht⟩ | ⟨r, hidle, rfl, -, ht⟩ := hostWrite_cases a v { s with schedule := rest } <;> rw [ht]
    · exact .quiet ⟨rfl, rfl, rfl, rfl, rfl, rfl⟩
    · exact .dropped a v rest hbusy hs ⟨rfl, rfl, rfl, rfl, rfl, rfl⟩
    · exact .written r v rest hidle hs (by cases r <;> exact ⟨rfl, rfl, rfl, rfl, rfl, rfl⟩)
  · exact .reset rest hs ⟨rfl, rfl, rfl, rfl, rfl, rfl⟩

/-! ### The statements -/

/-- Settles O49: of the events, only completion, request, issue and reset change the phase. -/
theorem phaseTransitions : Obligations.PhaseTransitions := by
  intro s t h hne
  cases controlEvent_of_step h with
  | quiet same => exact absurd same.phase hne
  | completion e busy answered same =>
    cases hp : s.phase with
    | idle => exact absurd hp busy
    | exec => exact .inr (.inl ⟨rfl, same.phase, same.done⟩)
    | wait => exact .inr (.inr (.inr (.inl ⟨rfl, same.phase, same.done, answered hp⟩)))
  | request r running op sent same => exact .inr (.inr (.inl ⟨running, same.phase, op, r, sent⟩))
  | dropped a v rest busy move same => exact absurd same.phase hne
  | written r v rest idle move same =>
    cases r with
    | cmd => exact .inl ⟨idle, same.phase, v, rest, move⟩
    | _ => exact absurd same.phase hne
  | reset rest move same => exact .inr (.inr (.inr (.inr ⟨same.phase, rest, move⟩)))

/-- Settles O51: of the events, only a write of one of its halves and a reset change the counter. -/
theorem counterIsTheHosts : Obligations.CounterIsTheHosts := by
  intro s t h hne
  cases controlEvent_of_step h with
  | quiet same => exact absurd same.ctr hne
  | completion e busy answered same => exact absurd same.ctr hne
  | request r running op sent same => exact absurd same.ctr hne
  | dropped a v rest busy move same => exact absurd same.ctr hne
  | written r v rest idle move same =>
    cases r with
    | ctrLo => exact .inl ⟨idle, v, rest, .inl move⟩
    | ctrHi => exact .inl ⟨idle, v, rest, .inr move⟩
    | _ => exact absurd same.ctr hne
  | reset rest move same => exact .inr ⟨rest, move⟩

section Flags

variable {s t : State} (h : ControlEvent s t)
include h

theorem ControlEvent.done_set (hs : s.done = false) (ht : t.done = true) :
    s.phase ≠ .idle ∧ t.phase = .idle ∧ t.irq = s.ie := by
  cases h with
  | quiet same => simp [same.done, hs] at ht
  | completion e busy answered same => exact ⟨busy, same.phase, by simp [State.irq, ht, same.ie]⟩
  | request r running op sent same => simp [same.done, hs] at ht
  | dropped a v rest busy move same => simp [same.done, hs] at ht
  | written r v rest idle move same => cases r <;> simp [same.done, writeReg, hs] at ht
  | reset rest move same => simp [same.done, State.reset] at ht

theorem ControlEvent.done_cleared (hs : s.done = true) (ht : t.done = false) :
    (s.phase = .idle ∧ ∃ v rest, s.schedule = .write 0x000 v :: rest) ∨
      (s.phase = .idle ∧ ∃ v rest, s.schedule = .write 0x004 v :: rest ∧ v.getLsbD 1 = true) ∨
      (∃ rest, s.schedule = .reset :: rest) := by
  cases h with
  | quiet same => simp [same.done, hs] at ht
  | completion e busy answered same => simp [same.done] at ht
  | request r running op sent same => simp [same.done, hs] at ht
  | dropped a v rest busy move same => simp [same.done, hs] at ht
  | written r v rest idle move same =>
    have hdone := same.done.symm.trans ht
    cases r with
    | cmd => exact .inl ⟨idle, v, rest, move⟩
    | status => exact .inr (.inl ⟨idle, v, rest, move, by simpa [writeReg, hs] using hdone⟩)
    | _ => exact nomatch hs.symm.trans hdone
  | reset rest move same => exact .inr (.inr ⟨rest, move⟩)

theorem ControlEvent.ovr_set (hs : s.ovr = false) (ht : t.ovr = true) :
    s.phase ≠ .idle ∧ ∃ a v rest, s.schedule = .write a v :: rest := by
  cases h with
  | quiet same => simp [same.ovr, hs] at ht
  | completion e busy answered same => simp [same.ovr, hs] at ht
  | request r running op sent same => simp [same.ovr, hs] at ht
  | dropped a v rest busy move same => exact ⟨busy, a, v, rest, move⟩
  | written r v rest idle move same => cases r <;> simp [same.ovr, writeReg, hs] at ht
  | reset rest move same => simp [same.ovr, State.reset] at ht

theorem ControlEvent.ovr_cleared (hs : s.ovr = true) (ht : t.ovr = false) :
    (s.phase = .idle ∧ ∃ v rest, s.schedule = .write 0x004 v :: rest ∧ v.getLsbD 2 = true) ∨
      (∃ rest, s.schedule = .reset :: rest) := by
  cases h with
  | quiet same => simp [same.ovr, hs] at ht
  | completion e busy answered same => simp [same.ovr, hs] at ht
  | request r running op sent same => simp [same.ovr, hs] at ht
  | dropped a v rest busy move same => simp [same.ovr] at ht
  | written r v rest idle move same =>
    have hovr := same.ovr.symm.trans ht
    cases r with
    | status => exact .inl ⟨idle, v, rest, move, by simpa [writeReg, hs] using hovr⟩
    | _ => exact nomatch hs.symm.trans hovr
  | reset rest move same => exact .inr ⟨rest, move⟩

theorem ControlEvent.err_changed (hne : t.err ≠ s.err) :
    (s.phase ≠ .idle ∧ t.phase = .idle ∧ t.done = true) ∨
      (s.phase = .idle ∧ ∃ v rest, s.schedule = .write 0x000 v :: rest) ∨ (∃ rest, s.schedule = .reset :: rest) := by
  cases h with
  | quiet same => exact absurd same.err hne
  | completion e busy answered same => exact .inl ⟨busy, same.phase, same.done⟩
  | request r running op sent same => exact absurd same.err hne
  | dropped a v rest busy move same => exact absurd same.err hne
  | written r v rest idle move same =>
    cases r with
    | cmd => exact .inr (.inl ⟨idle, v, rest, move⟩)
    | _ => exact absurd same.err hne
  | reset rest move same => exact .inr (.inr ⟨rest, move⟩)

end Flags

/-- Settles O50, flag by flag over the events. -/
theorem flagsChangeOnlyAsListed : Obligations.FlagsChangeOnlyAsListed := fun _ _ h =>
  have event := controlEvent_of_step h
  ⟨event.done_set, event.done_cleared, event.ovr_set, event.ovr_cleared, event.err_changed⟩

end Sys2Proof.Machine
end

section
/-! PROOFS. What commands do not read (R26, R76): a command run with other bytes at or beyond a length register does the
same, the buffer that holds them apart. -/

namespace Sys2Proof.Machine

/-! ### A command's two ways to run -/

/-- What a command that waits does with the answer `x` (R137, R167). -/
def takeAnswer (i : Instr) (x : Answer) (s : State) : State :=
  match i with
  | .hmac _ _ => hmacStore x (consumeAnswer s)
  | .hotp _ digits => hotpDerive digits x (consumeAnswer s)
  | _ => s

theorem exec_eq_takeAnswer {i : Instr} {s : State} (hi : Waits i) (hp : s.phase = .wait) {x : Answer}
    (hx : s.chan = .resp x) : exec i s = .next (takeAnswer i x s) := by
  cases i with
  | hmac alg src => exact exec_hmac_of_resp hp alg src hx
  | hotp alg digits => exact exec_hotp_of_resp hp alg digits hx
  | _ => exact hi.elim

/-- `exec_eq_preChecked` in every phase in which the command does not take an answer (log entry 17). -/
theorem exec_eq_preChecked_of_not_taking {i : Instr} {s : State} (h : Waits i → s.phase ≠ .wait) :
    exec i s = preChecked (preChecks i s) (commandBody i) s := by
  cases i with
  | hmac alg src =>
    simp only [exec, execHmac]
    split
    · next hp => exact absurd hp (h trivial)
    · cases alg <;> rfl
  | hotp alg digits =>
    simp only [exec, execHotp]
    split
    · next hp => exact absurd hp (h trivial)
    · cases alg <;> rfl
  | _ => rfl

/-- `DTRUNC` on a digest below 20 bytes (R153). -/
theorem dtruncBody_of_dlen_lt {s : State} (h : s.dlen.toNat < 20) (digits : Nat) :
    dtruncBody digits s = complete .internalInvariant (clearCode (clearObuf s)) := if_pos h

/-- `DTRUNC` on a digest of 20 bytes or more (R153). -/
theorem dtruncBody_of_le_dlen {s : State} (h : 20 ≤ s.dlen.toNat) (digits : Nat) : dtruncBody digits s =
    complete .none (deriveCode (digestBytes s) digits (spend s.dlen.toNat (clearCode (clearObuf s)))) :=
  if_neg (Nat.not_lt.mpr h)

/-! ### Runs side by side -/

/-- The change `f` of the state `s` is one that the command `i` neither sees nor undoes. -/
structure Unseen (i : Instr) (f : State → State) (s : State) : Prop where
  phase : (f s).phase = s.phase
  chan : (f s).chan = s.chan
  checks : preChecks i (f s) = preChecks i s
  complete : ∀ e, complete e (f s) = f (complete e s)
  body : commandBody i (f s) = f (commandBody i s)
  take : ∀ x, takeAnswer i x (f s) = f (takeAnswer i x s)

/-- A command started with an unseen change does the same and keeps the change. -/
theorem Unseen.exec {i : Instr} {f : State → State} {s t : State} (h : Unseen i f s) (ht : exec i s = .next t) :
    exec i (f s) = .next (f t) := by
  by_cases htaking : Waits i ∧ s.phase = .wait
  · obtain ⟨hi, hp⟩ := htaking
    by_cases hchan : ∃ x, s.chan = .resp x
    · obtain ⟨x, hx⟩ := hchan
      rw [exec_eq_takeAnswer hi hp hx] at ht
      rw [exec_eq_takeAnswer hi (h.phase.trans hp) (h.chan.trans hx), h.take, Host.Outcome.next.inj ht]
    · rw [exec_of_wait_of_no_answer hi hp (not_exists.mp hchan)] at ht
      rw [exec_of_wait_of_no_answer hi (h.phase.trans hp) (by rwa [h.chan, ← not_exists]), Host.Outcome.next.inj ht]
  · have hstart : Waits i → s.phase ≠ .wait := not_and.mp htaking
    rw [exec_eq_preChecked_of_not_taking hstart] at ht
    rw [exec_eq_preChecked_of_not_taking (by rwa [h.phase]), h.checks]
    obtain ⟨hpass, rfl⟩ | ⟨hfail, rfl⟩ := preChecked_cases ht
    · rw [preChecked_pass hpass, h.body]
    · rw [preChecked_fail hfail, h.complete]

/-- What a command sees of a buffer is its bytes below the length. -/
theorem readBytes_congr {m m' : Memory} {n : Nat} (h : ∀ j < n, m.byteAt j = m'.byteAt j) (d : Nat) :
    m.readBytes n d = m'.readBytes n d :=
  List.map_congr_left fun j hj => by rw [Memory.readByte, Memory.readByte, h j (List.mem_range.mp hj)]

/-! ### The three buffers a command reads -/

/-- `s` with another input in IBUF. -/
def withInput (m : Memory) (s : State) : State := { s with ibuf := m }

/-- `s` with another key in KBUF. -/
def withKey (m : Memory) (s : State) : State := { s with kbuf := m }

/-- `s` with another digest in DBUF. -/
def withDigest (m : Memory) (s : State) : State := { s with dbuf := m }

/-- Storing an answer carries a change of the state that neither a completion nor a write of DBUF touches. -/
theorem hmacStore_map (f : State → State) (hcomplete : ∀ e u, complete e (f u) = f (complete e u))
    (hwrite : ∀ bs u, writeDbuf bs (f u) = f (writeDbuf bs u)) (x : Answer) (s : State) :
    hmacStore x (f s) = f (hmacStore x s) := by
  cases x with
  | unavailable => exact hcomplete _ s
  | ok n d => simp only [hmacStore, hcomplete, hwrite, apply_ite f]

theorem hotpDerive_withInput (digits : Nat) (x : Answer) (m : Memory) (s : State) :
    hotpDerive digits x (withInput m s) = withInput m (hotpDerive digits x s) := by
  cases x with
  | unavailable => rfl
  | ok n d =>
    simp only [hotpDerive]
    split
    · rfl
    · split <;> rfl

theorem takeAnswer_withInput (i : Instr) (x : Answer) (m : Memory) (s : State) :
    takeAnswer i x (withInput m s) = withInput m (takeAnswer i x s) := by
  cases i with
  | hmac alg src => exact hmacStore_map (withInput m) (fun _ _ => rfl) (fun _ _ => rfl) x (consumeAnswer s)
  | hotp alg digits => exact hotpDerive_withInput digits x m (consumeAnswer s)
  | _ => rfl

section Agree

variable {s : State} {m : Memory}

theorem inputBytes_withInput (h : ∀ j < s.ilen.toNat, m.byteAt j = s.ibuf.byteAt j) :
    inputBytes (withInput m s) = inputBytes s := readBytes_congr h _

theorem commandBody_withInput (h : ∀ j < s.ilen.toNat, m.byteAt j = s.ibuf.byteAt j) (i : Instr) :
    commandBody i (withInput m s) = withInput m (commandBody i s) := by
  cases i with
  | b32enc =>
    simp only [commandBody, b32encBody, inputBytes_clearDest, inputBytes_withInput h]
    rfl
  | b32dec dest =>
    simp only [commandBody, b32decBody, inputBytes_clearDest, inputBytes_withInput h]
    cases dest <;> rfl
  | hmac alg src =>
    cases alg with
    | known a =>
      have hmsg : ∀ n, messageBytes src (spend n (withInput m s)) = messageBytes src (spend n s) := fun n => by
        cases src with
        | ibuf => exact readBytes_congr h _
        | ctr => rfl
      simp only [commandBody, hmacSend_eq]
      rw [hmsg]
      cases src <;> rfl
    | unsupported n => rfl
  | dtrunc digits =>
    obtain hlt | hle := Nat.lt_or_ge s.dlen.toNat 20
    · rw [commandBody, commandBody, dtruncBody_of_dlen_lt hlt, dtruncBody_of_dlen_lt (s := withInput m s) hlt]
      rfl
    · rw [commandBody, commandBody, dtruncBody_of_le_dlen hle, dtruncBody_of_le_dlen (s := withInput m s) hle]
      rfl
  | hotp alg digits =>
    cases alg with
    | known a =>
      simp only [commandBody, hotpSend, inputBytes_clearDest, inputBytes_withInput h]
      split <;> rfl
    | unsupported n => rfl

theorem unseen_withInput (h : ∀ j < s.ilen.toNat, m.byteAt j = s.ibuf.byteAt j) (i : Instr) :
    Unseen i (withInput m) s where
  phase := rfl
  chan := rfl
  checks := by
    cases i with
    | hmac alg src => cases src <;> rfl
    | _ => rfl
  complete _ := rfl
  body := commandBody_withInput h i
  take x := takeAnswer_withInput i x m s

theorem unseen_withKey (h : ∀ j < s.klen.toNat, m.byteAt j = s.kbuf.byteAt j) (alg : AlgId) (src : MsgSrc) :
    Unseen (.hmac alg src) (withKey m) s where
  phase := rfl
  chan := rfl
  checks := by cases src <;> rfl
  complete _ := rfl
  body := by
    cases alg with
    | known a =>
      have hkey : keyBytes (withKey m s) = keyBytes s := readBytes_congr h _
      simp only [commandBody, hmacSend_eq, hkey]
      cases src <;> rfl
    | unsupported n => rfl
  take x := hmacStore_map (withKey m) (fun _ _ => rfl) (fun _ _ => rfl) x (consumeAnswer s)

theorem unseen_withDigest (h : ∀ j < s.dlen.toNat, m.byteAt j = s.dbuf.byteAt j) (digits : Nat) :
    Unseen (.dtrunc digits) (withDigest m) s where
  phase := rfl
  chan := rfl
  checks := rfl
  complete _ := rfl
  body := by
    have hdigest : digestBytes (withDigest m s) = digestBytes s := readBytes_congr h _
    obtain hlt | hle := Nat.lt_or_ge s.dlen.toNat 20
    · rw [commandBody, commandBody, dtruncBody_of_dlen_lt hlt, dtruncBody_of_dlen_lt (s := withDigest m s) hlt]
      rfl
    · rw [commandBody, commandBody, dtruncBody_of_le_dlen hle,
        dtruncBody_of_le_dlen (s := withDigest m s) hle, hdigest]
      rfl
  take _ := rfl

end Agree

/-- Settles O10: in each of the three buffers, bytes at or beyond the length are a change that the command
does not see. -/
theorem bytesBeyondTheLengthUnread : Obligations.BytesBeyondTheLengthUnread :=
  ⟨fun i _ _ _ hagree h => (unseen_withInput hagree i).exec h,
    fun alg src _ _ _ hagree h => (unseen_withKey hagree alg src).exec h,
    fun digits _ _ _ hagree h => (unseen_withDigest hagree digits).exec h⟩

end Sys2Proof.Machine
end
